-- ==== Sys2Proof/Word.lean ====
section
/-! DEFINITION. The word types of PBGE: bytes of packets, memories and the transport, and the 16-bit operand and
cursor fields (00_scope.md R11, R12). -/
namespace Sys2Proof

/-- A byte: 8 bits, bit `i` of weight `2^i` (R12). -/
abbrev Byte := BitVec 8

/-- A 16-bit operand field or cursor register (R11). -/
abbrev Half := BitVec 16

end Sys2Proof
end

