-- ==== Sys2Proof/Syntax.lean ====
section
/-! DEFINITION. The commands of PBGE, one constructor for each row of spec/opcode_table.json, with the operands of
30_encoding.md R62. -/
namespace Sys2Proof

/-- A command. 16-bit operands are kept as their bits; the meanings read them signed or unsigned (R61). `on` has only
two legal values (R65), so it is a Bool. -/
inductive Instr where
  /-- 0x00, 43_controller.md R130. -/
  | nop
  /-- 0x01, 43_controller.md R131. -/
  | bindTransport (cs clk din dc rst : Byte)
  /-- 0x02, 43_controller.md R132. -/
  | init
  /-- 0x03, 43_controller.md R133. -/
  | clear
  /-- 0x04, 43_controller.md R134. -/
  | flush
  /-- 0x05, 43_controller.md R135. -/
  | getLastError
  /-- 0x10, 40_pixel.md R83. -/
  | setPixel (x y : Half) (on : Bool)
  /-- 0x11, 40_pixel.md R84. -/
  | getPixel (x y : Half)
  /-- 0x20, 41_raster.md R91. -/
  | drawLine (x1 y1 x2 y2 : Half) (on : Bool)
  /-- 0x21, 41_raster.md R95. -/
  | drawRect (x y w h : Half) (on : Bool)
  /-- 0x22, 41_raster.md R96. -/
  | drawFilledRect (x y w h : Half) (on : Bool)
  /-- 0x23, 41_raster.md R99. -/
  | drawCircle (cx cy r : Half) (on : Bool)
  /-- 0x30, 42_text.md R110. -/
  | setCursor (x y : Half)
  /-- 0x31, 42_text.md R111. -/
  | getCursor
  /-- 0x32, 42_text.md R113. -/
  | drawGlyph (code scale : Byte)
  /-- 0x33, 42_text.md R116; the operand `n` is the number of characters. -/
  | drawString (scale : Byte) (x y : Half) (chars : List Byte)
deriving DecidableEq, Repr

end Sys2Proof
end

