-- ==== Sys2Proof/WellFormed.lean ====
section
/-! DEFINITION. Which commands a packet can carry. The operand types leave one check: DRAW_STRING's length byte `n` is a
u8, so a string has at most 255 characters (30_encoding.md R62). -/
namespace Sys2Proof

/-- The command can be written as a packet. -/
def Instr.wellFormed : Instr → Bool
  | .drawString _ _ _ chars => decide (chars.length ≤ 255)
  | .nop => true
  | .bindTransport _ _ _ _ _ => true
  | .init => true
  | .clear => true
  | .flush => true
  | .getLastError => true
  | .setPixel _ _ _ => true
  | .getPixel _ _ => true
  | .drawLine _ _ _ _ _ => true
  | .drawRect _ _ _ _ _ => true
  | .drawFilledRect _ _ _ _ _ => true
  | .drawCircle _ _ _ _ => true
  | .setCursor _ _ => true
  | .getCursor => true
  | .drawGlyph _ _ => true

end Sys2Proof
end

