-- ==== Sys2Proof/Decode.lean ====
section
/-! DEFINITION. From packets to commands and back (30_encoding.md): the opcode map R63, the nine formats R62, the
decoder R69, the encoder, and the two readings of an opcode-table word the host asks for. -/
namespace Sys2Proof

/-- Why a packet is illegal (R66). Every one of these ends as the result code IllegalCommand. -/
inductive DecodeError where
  /-- L = 0. -/
  | emptyPacket
  /-- P[0] is unassigned (R67). -/
  | unassignedOpcode (op : Byte)
  /-- L differs from the expected length (R64). -/
  | wrongLength
  /-- an `on` byte above 0x01 (R65). -/
  | reservedOn (value : Byte)
deriving DecidableEq, Repr

/-- The sixteen assigned opcodes, by name. -/
inductive Op where
  | nop
  | bindTransport
  | init
  | clear
  | flush
  | getLastError
  | setPixel
  | getPixel
  | drawLine
  | drawRect
  | drawFilledRect
  | drawCircle
  | setCursor
  | getCursor
  | drawGlyph
  | drawString
deriving DecidableEq, Repr

/-- One row of the opcode map: the opcode byte, its command, and the packet length the format fixes (for DRAW_STRING the
length without its characters). -/
structure OpRow where
  code : Byte
  op : Op
  length : Nat
deriving DecidableEq, Repr

/-- The opcode map, R63. -/
def opcodeMap : List OpRow :=
  [⟨0x00, .nop, 1⟩, ⟨0x01, .bindTransport, 6⟩, ⟨0x02, .init, 1⟩, ⟨0x03, .clear, 1⟩,
   ⟨0x04, .flush, 1⟩, ⟨0x05, .getLastError, 1⟩, ⟨0x10, .setPixel, 6⟩, ⟨0x11, .getPixel, 5⟩,
   ⟨0x20, .drawLine, 10⟩, ⟨0x21, .drawRect, 10⟩, ⟨0x22, .drawFilledRect, 10⟩, ⟨0x23, .drawCircle, 8⟩,
   ⟨0x30, .setCursor, 5⟩, ⟨0x31, .getCursor, 1⟩, ⟨0x32, .drawGlyph, 3⟩, ⟨0x33, .drawString, 7⟩]

/-- The row of an opcode byte, none where it is unassigned (R67). -/
def opRow (b : Byte) : Option OpRow := opcodeMap.find? (fun r => r.code == b)

/-- A 16-bit field from its two bytes, low byte first (R61). -/
def le16 (lo hi : Byte) : Half := hi ++ lo

/-- The low byte of a 16-bit field, sent first. -/
def lo8 (h : Half) : Byte := h.extractLsb' 0 8

/-- The high byte of a 16-bit field, sent second. -/
def hi8 (h : Half) : Byte := h.extractLsb' 8 8

/-- The `on` operand: 0x00 or 0x01, anything else is reserved (R65). -/
def withOn (b : Byte) (k : Bool → Instr) : Except DecodeError Instr :=
  if b = 0x00 then .ok (k false) else if b = 0x01 then .ok (k true) else .error (.reservedOn b)

/-- Format F0: no operands (R62). -/
def formatF0 (i : Instr) : List Byte → Except DecodeError Instr
  | [] => .ok i
  | _ => .error .wrongLength

/-- Format FB: five line identifiers (R62). -/
def formatFB (k : Byte → Byte → Byte → Byte → Byte → Instr) : List Byte → Except DecodeError Instr
  | [cs, clk, din, dc, rst] => .ok (k cs clk din dc rst)
  | _ => .error .wrongLength

/-- Format FP: x, y, on (R62). -/
def formatFP (k : Half → Half → Bool → Instr) : List Byte → Except DecodeError Instr
  | [x0, x1, y0, y1, on] => withOn on (k (le16 x0 x1) (le16 y0 y1))
  | _ => .error .wrongLength

/-- Format FQ: x, y (R62). -/
def formatFQ (k : Half → Half → Instr) : List Byte → Except DecodeError Instr
  | [x0, x1, y0, y1] => .ok (k (le16 x0 x1) (le16 y0 y1))
  | _ => .error .wrongLength

/-- Formats FL and FR: four 16-bit fields and on (R62). -/
def formatFLR (k : Half → Half → Half → Half → Bool → Instr) : List Byte → Except DecodeError Instr
  | [a0, a1, b0, b1, c0, c1, d0, d1, on] =>
    withOn on (k (le16 a0 a1) (le16 b0 b1) (le16 c0 c1) (le16 d0 d1))
  | _ => .error .wrongLength

/-- Format FC: cx, cy, r, on (R62). -/
def formatFC (k : Half → Half → Half → Bool → Instr) : List Byte → Except DecodeError Instr
  | [x0, x1, y0, y1, r0, r1, on] => withOn on (k (le16 x0 x1) (le16 y0 y1) (le16 r0 r1))
  | _ => .error .wrongLength

/-- Format FG: code, scale (R62). -/
def formatFG (k : Byte → Byte → Instr) : List Byte → Except DecodeError Instr
  | [code, scale] => .ok (k code scale)
  | _ => .error .wrongLength

/-- Format FS: scale, x, y, n and then n characters (R62, R64). -/
def formatFS (k : Byte → Half → Half → List Byte → Instr) : List Byte → Except DecodeError Instr
  | scale :: x0 :: x1 :: y0 :: y1 :: n :: chars =>
    if chars.length = n.toNat then .ok (k scale (le16 x0 x1) (le16 y0 y1) chars) else .error .wrongLength
  | _ => .error .wrongLength

/-- The operands of a command, from the bytes after its opcode (R62, R63). -/
def decodeOperands (op : Op) (args : List Byte) : Except DecodeError Instr :=
  match op with
  | .nop => formatF0 .nop args
  | .bindTransport => formatFB .bindTransport args
  | .init => formatF0 .init args
  | .clear => formatF0 .clear args
  | .flush => formatF0 .flush args
  | .getLastError => formatF0 .getLastError args
  | .setPixel => formatFP .setPixel args
  | .getPixel => formatFQ .getPixel args
  | .drawLine => formatFLR .drawLine args
  | .drawRect => formatFLR .drawRect args
  | .drawFilledRect => formatFLR .drawFilledRect args
  | .drawCircle => formatFC .drawCircle args
  | .setCursor => formatFQ .setCursor args
  | .getCursor => formatF0 .getCursor args
  | .drawGlyph => formatFG .drawGlyph args
  | .drawString => formatFS .drawString args

/-- The decoder, R69: total on every byte sequence. -/
def decode (p : List Byte) : Except DecodeError Instr :=
  match p with
  | [] => .error .emptyPacket
  | b :: args =>
    match opRow b with
    | none => .error (.unassignedOpcode b)
    | some row => decodeOperands row.op args

/-- The `on` byte of a packet (R65). -/
def onByte (on : Bool) : Byte := if on then 0x01 else 0x00

/-- The packet of a command, from the opcode map R63 and the formats R62. -/
def encode (i : Instr) : List Byte :=
  match i with
  | .nop => [0x00]
  | .bindTransport cs clk din dc rst => [0x01, cs, clk, din, dc, rst]
  | .init => [0x02]
  | .clear => [0x03]
  | .flush => [0x04]
  | .getLastError => [0x05]
  | .setPixel x y on => [0x10, lo8 x, hi8 x, lo8 y, hi8 y, onByte on]
  | .getPixel x y => [0x11, lo8 x, hi8 x, lo8 y, hi8 y]
  | .drawLine x1 y1 x2 y2 on =>
    [0x20, lo8 x1, hi8 x1, lo8 y1, hi8 y1, lo8 x2, hi8 x2, lo8 y2, hi8 y2, onByte on]
  | .drawRect x y w h on => [0x21, lo8 x, hi8 x, lo8 y, hi8 y, lo8 w, hi8 w, lo8 h, hi8 h, onByte on]
  | .drawFilledRect x y w h on => [0x22, lo8 x, hi8 x, lo8 y, hi8 y, lo8 w, hi8 w, lo8 h, hi8 h, onByte on]
  | .drawCircle cx cy r on => [0x23, lo8 cx, hi8 cx, lo8 cy, hi8 cy, lo8 r, hi8 r, onByte on]
  | .setCursor x y => [0x30, lo8 x, hi8 x, lo8 y, hi8 y]
  | .getCursor => [0x31]
  | .drawGlyph code scale => [0x32, code, scale]
  | .drawString scale x y chars =>
    0x33 :: scale :: lo8 x :: hi8 x :: lo8 y :: hi8 y :: BitVec.ofNat 8 chars.length :: chars

/-- Byte `k` of a number whose bit 0 is the least significant bit of byte 0. -/
def byteOfNat (w k : Nat) : Byte := BitVec.ofNat 8 (w >>> (8 * k))

/-- The length of the packet that an opcode-table word begins: what R64 expects, operand bytes the word does not give
being zero; at least the `nbits` the table gives. -/
def tableWordLength (nbits w : Nat) : Nat :=
  match opRow (byteOfNat w 0) with
  | none => nbits / 8
  | some row =>
    max (nbits / 8) (if row.op = .drawString then row.length + (byteOfNat w 6).toNat else row.length)

/-- The packet of an opcode-table word of `nbits` bits (log 14). -/
def tableWordPacket (nbits w : Nat) : List Byte :=
  (List.range (tableWordLength nbits (w % 2 ^ nbits))).map (byteOfNat (w % 2 ^ nbits))

/-- The command the decoder reads from an opcode-table word, none where it refuses (log 14). -/
def decodeTableWord (nbits w : Nat) : Option Instr :=
  match decode (tableWordPacket nbits w) with
  | .ok i => some i
  | .error _ => none

end Sys2Proof
end

