-- ==== Sys2Proof/Config.lean ====
section
/-! DEFINITION. The parameters a model of PBGE takes (00_scope.md R8 to R10), the bounds the spec gives them, the two
free values the spec leaves open (93_implementation_defined.md U1, U5), and the fixture parameters of
95_test_vectors.md §0. -/
namespace Sys2Proof

/-- What the transport does with one Send: it returns ok, it returns fail, or it has not returned yet
(60_exceptions.md R158, R159). -/
inductive SendAnswer where
  | ok
  | fail
  | notYet
deriving DecidableEq, Repr, Inhabited

/-- The implementation parameters. They are fixed for one machine; no step changes them. -/
structure Config where
  /-- FB_W, the frame-buffer width in pixels (R8). -/
  fbW : Nat
  /-- FB_H, the frame-buffer height in pixels (R8). -/
  fbH : Nat
  /-- GLYPH_COLS, the columns per glyph (R9). -/
  glyphCols : Nat
  /-- GLYPH_ROWS, the rows per glyph (R9). -/
  glyphRows : Nat
  /-- GLYPH_BASE, the character code of glyph 0 (R9). -/
  glyphBase : Nat
  /-- GLYPH_COUNT, the number of glyphs (R9). -/
  glyphCount : Nat
  /-- GLYPH_ROM: one list of GLYPH_COLS column bytes for each glyph (R10, R29). -/
  glyphRom : List (List Byte)
  /-- INIT_SEQ, the control bytes of the handshake (R10). -/
  initSeq : List Byte
  /-- HOME_SEQ, the control bytes that home the transport's write cursor (R10). -/
  homeSeq : List Byte
  /-- PIN_COUNT, the number of line identifiers (R10). -/
  pinCount : Nat
deriving DecidableEq, Repr

namespace Config

/-- PAGES = ceil(FB_H / 8) (R8). -/
def pages (c : Config) : Nat := (c.fbH + 7) / 8

/-- FB_BYTES = PAGES * FB_W (R8). -/
def fbBytes (c : Config) : Nat := c.pages * c.fbW

/-- The bounds of R8, R9 and R10, and the shape of the glyph table. -/
abbrev wf (c : Config) : Prop :=
  (1 ≤ c.fbW ∧ c.fbW ≤ 32767) ∧ (1 ≤ c.fbH ∧ c.fbH ≤ 32767) ∧
  (1 ≤ c.glyphCols ∧ c.glyphCols ≤ 8) ∧ (1 ≤ c.glyphRows ∧ c.glyphRows ≤ 8) ∧
  c.glyphBase ≤ 255 ∧ (1 ≤ c.glyphCount ∧ c.glyphCount ≤ 256 - c.glyphBase) ∧
  c.glyphRom.length = c.glyphCount ∧ (∀ g ∈ c.glyphRom, g.length = c.glyphCols) ∧
  (1 ≤ c.pinCount ∧ c.pinCount ≤ 255)

/-- FREE VALUE (93 U1; log 3). What byte `i` of FB holds after reset number `n`, until it is written. -/
opaque resetByte : (n i : Nat) → Byte

/-- FREE VALUE (93 U5; log 5). The transport's answer number `k`, where none is laid down in advance. -/
opaque sendAnswer : (k : Nat) → SendAnswer

/-- The fixture of 95_test_vectors.md §0. DESIGN CHOICE (log 2): `State.reset` takes these parameters, because the
spec leaves seven of them open and a reset state needs some; they are no chip's. -/
def fixture : Config where
  fbW := 16
  fbH := 16
  glyphCols := 5
  glyphRows := 7
  glyphBase := 32
  glyphCount := 42
  glyphRom :=
    List.replicate 33 [0x00, 0x00, 0x00, 0x00, 0x00] ++
    [[0x7E, 0x11, 0x11, 0x11, 0x7E], [0x7F, 0x49, 0x49, 0x49, 0x36]] ++
    List.replicate 6 [0x00, 0x00, 0x00, 0x00, 0x00] ++
    [[0x00, 0x41, 0x7F, 0x41, 0x00]]
  initSeq := [0xA0, 0xA1, 0xA2]
  homeSeq := [0xB0, 0xB1]
  pinCount := 16

end Config

end Sys2Proof
end

