-- ==== Sys2Proof/Machine/State.lean ====
section
/-! DEFINITION. The state of PBGE (10_state.md) as plain data, the reasons a step can stop, and the state after reset
(R36). -/
namespace Sys2Proof.Machine

/-- The lifecycle states of STATUS (R22). The 2-bit value 3 is reserved and never held, so it has no name (log 16). -/
inductive Status where
  | uninitialized
  | portsBound
  | initialized
deriving DecidableEq, Repr

/-- The result codes (60_exceptions.md R150). The byte values 8..255 are reserved and never held, so they have no name
(log 16). -/
inductive ResultCode where
  | ok
  | notInitialized
  | transportNotBound
  | invalidConfig
  | invalidArgument
  | bufferAllocationFailed
  | transportFailure
  | illegalCommand
deriving DecidableEq, Repr

/-- BIND_CFG, the stored transport binding (R27). -/
structure BindCfg where
  cs : Byte
  clk : Byte
  din : Byte
  dc : Byte
  /-- 0xFF means no reset line. -/
  rst : Byte
  bound : Bool
deriving DecidableEq, Repr

/-- One byte handed to `Send`, tagged control (false) or data (true) (60_exceptions.md R158). -/
structure OutByte where
  value : Byte
  isData : Bool
deriving DecidableEq, Repr

/-- What a Send returned (60_exceptions.md R158). -/
inductive SendResult where
  | ok
  | fail
deriving DecidableEq, Repr

/-- One record of the transport trace TX (R30). -/
structure TxRecord where
  value : Byte
  isData : Bool
  result : SendResult
deriving DecidableEq, Repr

/-- A response: the result code and the data bytes (30_encoding.md R68). -/
structure Response where
  code : ResultCode
  data : List Byte
deriving DecidableEq, Repr

/-- What reaches the engine from outside: a packet the host submits, whole (70_reset_and_hazards.md R176), or the reset
event the platform applies (R170). -/
inductive HostEvent where
  | packet (bytes : List Byte)
  | reset
deriving DecidableEq, Repr

/-- The three commands that send, and so can be held in the middle (60_exceptions.md R158). -/
inductive StreamCommand where
  | init
  | clear
  | flush
deriving DecidableEq, Repr

/-- The working state that outlives a step (R32): the command in flight and the bytes it still has to send, the first of
which is the Send that has not returned (log 6). -/
structure InFlight where
  command : StreamCommand
  pending : List OutByte
deriving DecidableEq, Repr

/-- How a sequence of Sends came out. -/
inductive SendEnd where
  /-- every byte was sent -/
  | done
  /-- a Send returned fail; later bytes are not sent -/
  | failed
  /-- the first of these bytes is the Send that has not returned -/
  | waiting (pending : List OutByte)
deriving DecidableEq, Repr

/-- FB as the bytes written since reset: addresses strictly rising. A byte not listed has not been written (log 3). -/
abbrev Memory := List Host.Cell

/-- Everything the spec gives the machine; the last three fields are the model's own. -/
structure State where
  /-- The parameters (00_scope.md R8 to R10), GLYPH_ROM among them (R29). -/
  cfg : Config
  /-- STATUS (R22). -/
  status : Status
  /-- LAST_ERROR (R24). -/
  lastError : ResultCode
  /-- CURSOR_X (R25). -/
  cursorX : Half
  /-- CURSOR_Y (R25). -/
  cursorY : Half
  /-- BIND_CFG (R27). -/
  bind : BindCfg
  /-- FB (R28). -/
  fb : Memory
  /-- TX, the transport trace, oldest record first (R30). -/
  tx : List TxRecord
  /-- BUSY (R33). -/
  busy : Bool
  /-- The command held by an outstanding Send, none between commands (R32, R36). -/
  inFlight : Option InFlight
  /-- The command port: what host and platform have offered and the engine has not taken, oldest first (R176). -/
  inbox : List HostEvent
  /-- The responses delivered to the host, oldest first (30_encoding.md R68). -/
  responses : List Response
  /-- MODEL: the transport's next answers, as far as they are laid down in advance (log 5). -/
  answers : List SendAnswer
  /-- MODEL: how many answers have been drawn from `Config.sendAnswer` (log 5). -/
  draws : Nat
  /-- MODEL: which reset this is, the argument of the free value `Config.resetByte` (log 3). -/
  resets : Nat
deriving DecidableEq, Repr

/-- A command in execution: the state it has reached and whether InvalidArgument is latched (60_exceptions.md R154). -/
structure Run where
  state : State
  latched : Bool
deriving DecidableEq, Repr

/-- What the command port gives a step: a command to execute, or a state settled without one. -/
inductive Fetch where
  | execute (i : Instr) (s : State)
  | settled (s : State)
deriving DecidableEq, Repr

/-- The reasons the machine stops with a fault: none. PBGE has no traps, every error is a result code
(60_exceptions.md R152, R161), no access leaves FB (20_memory.md R49), and an outstanding Send holds the machine in a
state of its own (log 6). Nobody raises a fault (log 12). -/
inductive Fault where
deriving DecidableEq, Repr

/-- The reasons a command has no meaning. -/
inductive Refusal where
  /-- Raised by an arm of `exec` whose command has no meaning yet; no arm raises it (log 12). Safe. -/
  | notModelled (mnemonic : String)
deriving DecidableEq, Repr

/-- Every piece of state at its reset value, R36, for any parameters. What R36 does not govern is an argument: which
reset this is, and what host, platform and transport will do. The five line fields of BIND_CFG, unspecified by R36, are
0x00 (DESIGN CHOICE, log 4); the response history starts empty (DESIGN CHOICE, log 9). -/
def State.resetWith (c : Config) (resets : Nat) (inbox : List HostEvent) (answers : List SendAnswer) (draws : Nat) :
    State where
  cfg := c
  status := .uninitialized
  lastError := .ok
  cursorX := 0
  cursorY := 0
  bind := { cs := 0x00, clk := 0x00, din := 0x00, dc := 0x00, rst := 0x00, bound := false }
  fb := []
  tx := []
  busy := false
  inFlight := none
  inbox := inbox
  responses := []
  answers := answers
  draws := draws
  resets := resets

/-- The machine right after its first reset, with the fixture parameters (DESIGN CHOICE, log 2), nothing submitted yet
(log 1) and no answer of the transport laid down (log 5). -/
def State.reset : State := State.resetWith Config.fixture 0 [] [] 0

end Sys2Proof.Machine
end

