-- ==== Sys2Proof/Machine/Flags.lean ====
section
/-! DEFINITION. PBGE has no condition codes (10_state.md R34). Its only condition state is the result of a command: the
codes and their numbers (60_exceptions.md R150), the pending result (R154), and LAST_ERROR with the response
(10_state.md R26, 30_encoding.md R68). -/
namespace Sys2Proof.Machine

/-- The 8-bit value of a result code, 60_exceptions.md R150. -/
def ResultCode.toByte : ResultCode → Byte
  | .ok => 0
  | .notInitialized => 1
  | .transportNotBound => 2
  | .invalidConfig => 3
  | .invalidArgument => 4
  | .bufferAllocationFailed => 5
  | .transportFailure => 6
  | .illegalCommand => 7

/-- The 2-bit value of STATUS, 10_state.md R22. -/
def statusValue : Status → BitVec 2
  | .uninitialized => 0
  | .portsBound => 1
  | .initialized => 2

/-- A command starts with nothing latched (R154). -/
def startRun (s : State) : Run := { state := s, latched := false }

/-- `latch InvalidArgument`: recorded, and the command goes on (R154). -/
def latchInvalidArgument (r : Run) : Run := { r with latched := true }

/-- The result a command ends with, from its pending result (R154). -/
def pendingResult (latched : Bool) : ResultCode := if latched then .invalidArgument else .ok

/-- Deliver the response (30_encoding.md R68). That ends the command: BUSY falls to 0 and the working state is gone
(10_state.md R32, R33). -/
def deliver (code : ResultCode) (data : List Byte) (s : State) : State :=
  { s with responses := s.responses ++ [{ code := code, data := data }], busy := false, inFlight := none }

/-- LAST_ERROR <- code (10_state.md R26). -/
def setLastError (code : ResultCode) (s : State) : State := { s with lastError := code }

/-- End a command: its code goes into LAST_ERROR and into the response (10_state.md R26). -/
def complete (code : ResultCode) (data : List Byte) (s : State) : State := deliver code data (setLastError code s)

end Sys2Proof.Machine
end

