-- ==== Sys2Proof/Machine/Operands.lean ====
section
/-! DEFINITION. How operands are read (30_encoding.md R61), the points they name, and the operand checks: the range check
R81, the glyph lookup R45 and R112, the binding descriptor R137. -/
namespace Sys2Proof.Machine

/-- A pixel coordinate pair, exact integers (00_scope.md R13). -/
abbrev Point := Int × Int

/-- A signed 16-bit operand (R61). -/
def s16 (h : Half) : Int := h.toInt

/-- An unsigned 16-bit operand (R61). -/
def u16 (h : Half) : Nat := h.toNat

/-- An unsigned 8-bit operand (R61). -/
def u8 (b : Byte) : Nat := b.toNat

/-- The point of two signed operands. -/
def point (x y : Half) : Point := (s16 x, s16 y)

/-- The range check, 40_pixel.md R81. -/
def inRange (c : Config) (p : Point) : Bool :=
  decide (0 ≤ p.1 ∧ p.1 < (c.fbW : Int) ∧ 0 ≤ p.2 ∧ p.2 < (c.fbH : Int))

/-- GLYPH_OK: the character has a glyph (42_text.md R112). -/
def glyphOk (c : Config) (code : Byte) : Bool :=
  decide (c.glyphBase ≤ u8 code ∧ u8 code - c.glyphBase < c.glyphCount)

/-- GlyphRead: column `col` of glyph `g` (20_memory.md R45). Only asked inside the table (log 15). -/
def glyphRead (c : Config) (g col : Nat) : Byte := (c.glyphRom.getD g []).getD col 0x00

/-- Is source pixel (column `col`, row `row`) of a character's glyph a 1 (R45, R112)? -/
def glyphPixel (c : Config) (code : Byte) (col row : Nat) : Bool :=
  (glyphRead c (u8 code - c.glyphBase) col).getLsbD row

/-- The identifiers a descriptor names: `rst` only where it is not 0xFF (43_controller.md R137). -/
def presentLines (cs clk din dc rst : Byte) : List Byte :=
  [cs, clk, din, dc] ++ (if rst = 0xFF then [] else [rst])

/-- VALID_DESCRIPTOR, 43_controller.md R137: the identifiers present exist and are pairwise distinct. -/
def validDescriptor (c : Config) (cs clk din dc rst : Byte) : Bool :=
  decide ((∀ l ∈ presentLines cs clk din dc rst, u8 l < c.pinCount) ∧ (presentLines cs clk din dc rst).Nodup)

end Sys2Proof.Machine
end

