-- ==== Sys2Proof/Machine/Ops.lean ====
section
/-! DEFINITION. The named operations every meaning is written over: FB accesses and PLOT (40_pixel.md), taking an error
(60_exceptions.md R152 to R155), Send (R158, R159), the cursor, and the host's port (70_reset_and_hazards.md). -/
namespace Sys2Proof.Machine

/-! ## FB -/

/-- The byte listed at an address, none where nothing has been written. -/
def Memory.byteAt : Memory → Nat → Option Byte
  | [], _ => none
  | (b, v) :: m, a => if a = b then some v else Memory.byteAt m a

/-- List a byte at its place, replacing what stood there. -/
def Memory.store : Memory → Nat → Byte → Memory
  | [], a, v => [(a, v)]
  | (b, w) :: m, a, v =>
    if a < b then (a, v) :: (b, w) :: m
    else if a = b then (a, v) :: m
    else (b, w) :: Memory.store m a v

/-- The canonical form: addresses strictly rising. Unlisted means unwritten, so no entry can equal it (log 3). -/
abbrev Memory.wf (m : Memory) : Prop := List.Pairwise (fun p q => p.1 < q.1) m

/-- MemRead(i, 1) (00_scope.md R15). A byte not written since reset holds the free value of that reset
(10_state.md R36, log 3). -/
def State.memRead (s : State) (i : Nat) : Byte := (s.fb.byteAt i).getD (Config.resetByte s.resets i)

/-- MemWrite(i, 1, v) (00_scope.md R15). -/
def State.memWrite (s : State) (i : Nat) (v : Byte) : State := { s with fb := s.fb.store i v }

/-- The byte index of a pixel, 40_pixel.md R80. -/
def pixelIndex (c : Config) (p : Point) : Nat := (p.2.toNat / 8) * c.fbW + p.1.toNat

/-- The bit index of a pixel, 40_pixel.md R80. -/
def pixelBit (p : Point) : Nat := p.2.toNat % 8

/-- The pixel (x, y), 40_pixel.md R80. -/
def State.pixel (s : State) (p : Point) : Bool := (s.memRead (pixelIndex s.cfg p)).getLsbD (pixelBit p)

/-- A byte with bit `b` set or cleared, 40_pixel.md R82. -/
def plotByte (on : Bool) (b : Nat) (v : Byte) : Byte :=
  if on then v ||| (1#8 <<< b) else v &&& (0xFF#8 ^^^ (1#8 <<< b))

/-- PLOT, 40_pixel.md R82: a rejected plot latches InvalidArgument and leaves FB alone. -/
def plot (on : Bool) (r : Run) (p : Point) : Run :=
  if inRange r.state.cfg p then
    { r with
      state := r.state.memWrite (pixelIndex r.state.cfg p)
        (plotByte on (pixelBit p) (r.state.memRead (pixelIndex r.state.cfg p))) }
  else latchInvalidArgument r

/-- The plots of a shape, in order. -/
def plotAll (on : Bool) (r : Run) (points : List Point) : Run := points.foldl (plot on) r

/-- MemWrite(i, 1, 0x00) for i = 0 .. n - 1 (43_controller.md R133). -/
def State.zeroBytes (s : State) (n : Nat) : State := (List.range n).foldl (fun t i => t.memWrite i 0x00) s

/-- The bytes FB[0 .. FB_BYTES - 1], in ascending index order (43_controller.md R136). -/
def State.fbContents (s : State) : List Byte := (List.range s.cfg.fbBytes).map s.memRead

/-! ## The cursor -/

/-- CURSOR_X <- x, CURSOR_Y <- y. -/
def State.setCursor (s : State) (x y : Nat) : State :=
  { s with cursorX := BitVec.ofNat 16 x, cursorY := BitVec.ofNat 16 y }

/-! ## Ending a command, taking an error -/

/-- `m` zero bytes, the data of a response that reports an error (30_encoding.md R68). -/
def zeroData (m : Nat) : List Byte := List.replicate m 0x00

/-- `raise E`: the command ends at once with result E and writes already made stay made (60_exceptions.md R153). This is
all that taking an error is: no state is saved, no mode changes, no vector is taken (R152). -/
def raiseError (code : ResultCode) (m : Nat) (s : State) : Host.Outcome State Fault Refusal :=
  .next (complete code (zeroData m) s)

/-- `result OK` with data bytes. -/
def resultOk (data : List Byte) (s : State) : Host.Outcome State Fault Refusal := .next (complete .ok data s)

/-- The end of a command that plots: InvalidArgument where it was latched, else OK (60_exceptions.md R154). -/
def settle (r : Run) : Host.Outcome State Fault Refusal :=
  .next (complete (pendingResult r.latched) [] r.state)

/-- The lifecycle requirement, 60_exceptions.md R155; `m` is the length of the command's response data. -/
def requireInitialized (m : Nat) (s : State) (body : Host.Outcome State Fault Refusal) :
    Host.Outcome State Fault Refusal :=
  if s.status = .initialized then body else raiseError .notInitialized m s

/-! ## Send and the streams built from it -/

/-- The transport's next answer and the state with that answer used up: the answers laid down in advance, then free
values (60_exceptions.md R158, log 5). -/
def takeAnswer (s : State) : SendAnswer × State :=
  match s.answers with
  | a :: rest => (a, { s with answers := rest })
  | [] => (Config.sendAnswer s.draws, { s with draws := s.draws + 1 })

/-- A Send that returned appends its record to TX (60_exceptions.md R158). -/
def recordSend (b : OutByte) (result : SendResult) (s : State) : State :=
  { s with tx := s.tx ++ [{ value := b.value, isData := b.isData, result := result }] }

/-- Send the bytes in order: stop at the first fail, with no retry (43_controller.md R132, R136), and at a Send that has
not returned (60_exceptions.md R159). -/
def sendAll : List OutByte → State → State × SendEnd
  | [], s => (s, .done)
  | b :: bs, s =>
    match takeAnswer s with
    | (.ok, t) => sendAll bs (recordSend b .ok t)
    | (.fail, t) => (recordSend b .fail t, .failed)
    | (.notYet, t) => (t, .waiting (b :: bs))

/-- Control bytes, isData = false (00_scope.md R10). -/
def controlBytes (bs : List Byte) : List OutByte := bs.map (fun v => { value := v, isData := false })

/-- Data bytes, isData = true. -/
def dataBytes (bs : List Byte) : List OutByte := bs.map (fun v => { value := v, isData := true })

/-- What STREAM sends: HOME_SEQ and then FB in ascending index order (43_controller.md R136). -/
def streamBytes (s : State) : List OutByte := controlBytes s.cfg.homeSeq ++ dataBytes s.fbContents

/-- What is left to do once every byte is sent: INIT moves STATUS to Initialized (43_controller.md R132). -/
def afterStream (command : StreamCommand) (s : State) : State :=
  match command with
  | .init => { s with status := .initialized }
  | .clear => s
  | .flush => s

/-- Hold the machine in an outstanding Send: BUSY stays 1 and no response is delivered (60_exceptions.md R159). -/
def holdBusy (w : InFlight) (s : State) : State := { s with busy := true, inFlight := some w }

/-- Send the rest of a command's bytes and end the command, or stay held (43_controller.md R132 to R136). -/
def runStream (command : StreamCommand) (bytes : List OutByte) (s : State) : State :=
  match sendAll bytes s with
  | (t, .done) => complete .ok [] (afterStream command t)
  | (t, .failed) => complete .transportFailure [] t
  | (t, .waiting pending) => holdBusy { command := command, pending := pending } t

/-! ## The host's port -/

/-- Accept the packet or take the reset event at the head of the port. -/
def State.dropEvent (s : State) : State := { s with inbox := s.inbox.tail }

/-- Acceptance of a packet sets BUSY = 1 (10_state.md R33). -/
def acceptPacket (s : State) : State := { s.dropEvent with busy := true }

/-- An illegal packet: LAST_ERROR <- IllegalCommand, nothing else (30_encoding.md R66). -/
def rejectPacket (s : State) : State := complete .illegalCommand [] s

/-- The reset event: every piece of state at its reset value, a new draw for FB, nothing sent, the parameters with
GLYPH_ROM kept (70_reset_and_hazards.md R170 to R172; log 8). -/
def applyReset (s : State) : State :=
  State.resetWith s.cfg (s.resets + 1) s.inbox.tail s.answers s.draws

/-- While BUSY = 1 the engine goes on with the Send it is held in, and takes nothing from the port (R176, R159). -/
def resumeSend (s : State) : State :=
  match s.inFlight with
  | some w => runStream w.command w.pending s
  | none => s

/-- What a step finds to do: the held Send, an idle port (60_exceptions.md R167), the reset event, or a packet. -/
def fetch (s : State) : Fetch :=
  if s.busy then .settled (resumeSend s)
  else
    match s.inbox with
    | [] => .settled s
    | .reset :: _ => .settled (applyReset s)
    | .packet p :: _ =>
      match decode p with
      | .ok i => .execute i (acceptPacket s)
      | .error _ => .settled (rejectPacket (acceptPacket s))

/-- Submit a packet so that the next step takes it: at the head of the port, with no command in flight (log 14). -/
def submitFirst (p : List Byte) (s : State) : State :=
  { s with inbox := .packet p :: s.inbox, busy := false, inFlight := none }

end Sys2Proof.Machine
end

