-- ==== Sys2Proof/Machine/Controller.lean ====
section
/-! DEFINITION. The device controller's commands (43_controller.md). -/
namespace Sys2Proof.Machine

/-- NOP, R130. -/
def execNop (s : State) : Host.Outcome State Fault Refusal := resultOk [] s

/-- BIND_CFG <- the descriptor, STATUS <- PortsBound (R131). -/
def bindLines (cs clk din dc rst : Byte) (s : State) : State :=
  { s with
    bind := { cs := cs, clk := clk, din := din, dc := dc, rst := rst, bound := true }
    status := .portsBound }

/-- BIND_TRANSPORT, R131. -/
def execBindTransport (cs clk din dc rst : Byte) (s : State) : Host.Outcome State Fault Refusal :=
  if validDescriptor s.cfg cs clk din dc rst then resultOk [] (bindLines cs clk din dc rst s)
  else raiseError .invalidConfig 0 s

/-- INIT, R132. -/
def execInit (s : State) : Host.Outcome State Fault Refusal :=
  if s.status = .uninitialized then raiseError .transportNotBound 0 s
  else .next (runStream .init (controlBytes s.cfg.initSeq) s)

/-- FB all zero and the cursor at (0, 0), the part of CLEAR before its STREAM (R133). -/
def blank (s : State) : State := (s.zeroBytes s.cfg.fbBytes).setCursor 0 0

/-- CLEAR, R133. -/
def execClear (s : State) : Host.Outcome State Fault Refusal :=
  requireInitialized 0 s (.next (runStream .clear (streamBytes (blank s)) (blank s)))

/-- FLUSH, R134. -/
def execFlush (s : State) : Host.Outcome State Fault Refusal :=
  requireInitialized 0 s (.next (runStream .flush (streamBytes s) s))

/-- GET_LAST_ERROR, R135: the response carries LAST_ERROR, which is not written. -/
def execGetLastError (s : State) : Host.Outcome State Fault Refusal := .next (deliver .ok [s.lastError.toByte] s)

end Sys2Proof.Machine
end

