-- ==== Sys2Proof/Machine/Pixel.lean ====
section
/-! DEFINITION. The pixel engine's commands (40_pixel.md). -/
namespace Sys2Proof.Machine

/-- SET_PIXEL, R83. -/
def execSetPixel (x y : Half) (on : Bool) (s : State) : Host.Outcome State Fault Refusal :=
  requireInitialized 0 s
    (if inRange s.cfg (point x y) then settle (plot on (startRun s) (point x y))
     else raiseError .invalidArgument 0 s)

/-- GET_PIXEL, R84: the data byte is 0x00 or 0x01. -/
def execGetPixel (x y : Half) (s : State) : Host.Outcome State Fault Refusal :=
  requireInitialized 1 s
    (if inRange s.cfg (point x y) then resultOk [if s.pixel (point x y) then 0x01 else 0x00] s
     else raiseError .invalidArgument 1 s)

end Sys2Proof.Machine
end

