-- ==== Sys2Proof/Machine/Raster.lean ====
section
/-! DEFINITION. The rasterizer (41_raster.md): the points each shape plots, in the spec's order, and its four commands.
A shape is a list of points handed to PLOT, over exact integers (00_scope.md R13). -/
namespace Sys2Proof.Machine

/-- The loop of LINE, R90, from the point (x, y) with error `err`. The first argument bounds the passes (log 13). -/
def lineLoop (x2 y2 dx dy sx sy : Int) : Nat → Int → Int → Int → List Point
  | 0, _, _, _ => []
  | n + 1, x, y, err =>
    (x, y) ::
      if x = x2 ∧ y = y2 then []
      else
        let e2 := 2 * err
        let x' := if e2 > -dy then x + sx else x
        let err' := if e2 > -dy then err - dy else err
        let y' := if e2 < dx then y + sy else y
        let err'' := if e2 < dx then err' + dx else err'
        lineLoop x2 y2 dx dy sx sy n x' y' err''

/-- LINE, R90: the points it plots. -/
def linePoints (x1 y1 x2 y2 : Int) : List Point :=
  let dx : Int := (x2 - x1).natAbs
  let dy : Int := (y2 - y1).natAbs
  lineLoop x2 y2 dx dy (x2 - x1).sign (y2 - y1).sign ((x2 - x1).natAbs + (y2 - y1).natAbs + 1) x1 y1 (dx - dy)

/-- RECT_OUTLINE, R94: top, left, right, bottom. -/
def rectPoints (x y : Int) (w h : Nat) : List Point :=
  if h = 0 then []
  else
    linePoints x y (x + w) y ++ linePoints x y x (y + h - 1) ++
    linePoints (x + w) y (x + w) (y + h - 1) ++ linePoints x (y + h - 1) (x + w) (y + h - 1)

/-- The rows of DRAW_FILLED_RECT, R96. -/
def filledRectPoints (x y : Int) (w h : Nat) : List Point :=
  (List.range h).flatMap (fun (r : Nat) => linePoints x (y + r) (x + w) (y + r))

/-- The loop of CIRCLE, R98: the values (x, y, d) at the start of each iteration. The first argument bounds the
iterations (log 13). -/
def circleLoop : Nat → Int → Int → Int → List (Int × Int × Int)
  | 0, _, _, _ => []
  | n + 1, x, y, d =>
    if y ≤ x then
      (x, y, d) ::
        if d ≤ 0 then circleLoop n x (y + 1) (d + 2 * (y + 1) + 1)
        else circleLoop n (x - 1) (y + 1) (d + 2 * ((y + 1) - (x - 1)) + 1)
    else []

/-- The iterations of CIRCLE for radius `r`, R98. -/
def circleSteps (r : Nat) : List (Int × Int × Int) := circleLoop (r + 1) r 0 (1 - r)

/-- The eight points one iteration plots, in the order of R98. -/
def octants (cx cy x y : Int) : List Point :=
  [(cx + x, cy + y), (cx - x, cy + y), (cx + x, cy - y), (cx - x, cy - y),
   (cx + y, cy + x), (cx - y, cy + x), (cx + y, cy - x), (cx - y, cy - x)]

/-- CIRCLE, R98: the points it plots. -/
def circlePoints (cx cy : Int) (r : Nat) : List Point :=
  (circleSteps r).flatMap (fun q => octants cx cy q.1 q.2.1)

/-- A command that plots one shape and nothing else. -/
def drawShape (on : Bool) (points : List Point) (s : State) : Host.Outcome State Fault Refusal :=
  requireInitialized 0 s (settle (plotAll on (startRun s) points))

/-- DRAW_LINE, R91. -/
def execDrawLine (x1 y1 x2 y2 : Half) (on : Bool) (s : State) : Host.Outcome State Fault Refusal :=
  drawShape on (linePoints (s16 x1) (s16 y1) (s16 x2) (s16 y2)) s

/-- DRAW_RECT, R95. -/
def execDrawRect (x y w h : Half) (on : Bool) (s : State) : Host.Outcome State Fault Refusal :=
  drawShape on (rectPoints (s16 x) (s16 y) (u16 w) (u16 h)) s

/-- DRAW_FILLED_RECT, R96. -/
def execDrawFilledRect (x y w h : Half) (on : Bool) (s : State) : Host.Outcome State Fault Refusal :=
  drawShape on (filledRectPoints (s16 x) (s16 y) (u16 w) (u16 h)) s

/-- DRAW_CIRCLE, R99. -/
def execDrawCircle (cx cy r : Half) (on : Bool) (s : State) : Host.Outcome State Fault Refusal :=
  drawShape on (circlePoints (s16 cx) (s16 cy) (u16 r)) s

end Sys2Proof.Machine
end

