-- ==== Sys2Proof/Machine/Text.lean ====
section
/-! DEFINITION. The text renderer (42_text.md): the cursor commands, the blit, the cursor advance, and strings. -/
namespace Sys2Proof.Machine

/-- The points BLIT plots for a character, R112: each 1 of the glyph as a scale × scale block at the cursor. -/
def blitPoints (s : State) (code scale : Byte) : List Point :=
  (List.range (s.cfg.glyphCols * u8 scale)).flatMap fun column =>
    (List.range (s.cfg.glyphRows * u8 scale)).filterMap fun row =>
      if glyphPixel s.cfg code (column / u8 scale) (row / u8 scale) then
        some ((u16 s.cursorX : Int) + column, (u16 s.cursorY : Int) + row)
      else none

/-- ADVANCE, R114. -/
def advance (scale : Byte) (s : State) : State :=
  let nx := u16 s.cursorX + s.cfg.glyphCols * u8 scale + 1
  let ny := u16 s.cursorY + s.cfg.glyphRows * u8 scale + 1
  if s.cfg.fbW ≤ nx then
    if s.cfg.fbH ≤ ny then s.setCursor 0 0 else s.setCursor 0 ny
  else s.setCursor nx (u16 s.cursorY)

/-- BLIT and then ADVANCE (R113, R116). -/
def renderGlyph (scale : Byte) (r : Run) (code : Byte) : Run :=
  let drawn := plotAll true r (blitPoints r.state code scale)
  { drawn with state := advance scale drawn.state }

/-- One character of a string: rendered, or skipped with InvalidArgument latched (R116). -/
def renderChar (scale : Byte) (r : Run) (code : Byte) : Run :=
  if glyphOk r.state.cfg code then renderGlyph scale r code else latchInvalidArgument r

/-- SET_CURSOR, R110. -/
def execSetCursor (x y : Half) (s : State) : Host.Outcome State Fault Refusal :=
  requireInitialized 0 s
    (if inRange s.cfg (point x y) then resultOk [] (s.setCursor (s16 x).toNat (s16 y).toNat)
     else raiseError .invalidArgument 0 s)

/-- GET_CURSOR, R111: the low byte of each register first. -/
def execGetCursor (s : State) : Host.Outcome State Fault Refusal :=
  requireInitialized 4 s (resultOk [lo8 s.cursorX, hi8 s.cursorX, lo8 s.cursorY, hi8 s.cursorY] s)

/-- DRAW_GLYPH, R113. -/
def execDrawGlyph (code scale : Byte) (s : State) : Host.Outcome State Fault Refusal :=
  requireInitialized 0 s
    (if u8 scale = 0 then raiseError .invalidArgument 0 s
     else if glyphOk s.cfg code then settle (renderGlyph scale (startRun s) code)
     else raiseError .invalidArgument 0 s)

/-- DRAW_STRING, R116: everything is checked before anything is written. -/
def execDrawString (scale : Byte) (x y : Half) (chars : List Byte) (s : State) : Host.Outcome State Fault Refusal :=
  requireInitialized 0 s
    (if u8 scale = 0 ∨ inRange s.cfg (point x y) = false then raiseError .invalidArgument 0 s
     else settle (chars.foldl (renderChar scale) (startRun (s.setCursor (s16 x).toNat (s16 y).toNat))))

end Sys2Proof.Machine
end

