-- ==== Sys2Proof/Machine/Dispatch.lean ====
section
/-! DEFINITION. One arm for each command: its meaning. -/
namespace Sys2Proof.Machine

def exec (i : Instr) (s : State) : Host.Outcome State Fault Refusal :=
  match i with
  | .nop => Sys2Proof.Machine.execNop s
  | .bindTransport cs clk din dc rst => Sys2Proof.Machine.execBindTransport cs clk din dc rst s
  | .init => Sys2Proof.Machine.execInit s
  | .clear => Sys2Proof.Machine.execClear s
  | .flush => Sys2Proof.Machine.execFlush s
  | .getLastError => Sys2Proof.Machine.execGetLastError s
  | .setPixel x y on => Sys2Proof.Machine.execSetPixel x y on s
  | .getPixel x y => Sys2Proof.Machine.execGetPixel x y s
  | .drawLine x1 y1 x2 y2 on => Sys2Proof.Machine.execDrawLine x1 y1 x2 y2 on s
  | .drawRect x y w h on => Sys2Proof.Machine.execDrawRect x y w h on s
  | .drawFilledRect x y w h on => Sys2Proof.Machine.execDrawFilledRect x y w h on s
  | .drawCircle cx cy r on => Sys2Proof.Machine.execDrawCircle cx cy r on s
  | .setCursor x y => Sys2Proof.Machine.execSetCursor x y s
  | .getCursor => Sys2Proof.Machine.execGetCursor s
  | .drawGlyph code scale => Sys2Proof.Machine.execDrawGlyph code scale s
  | .drawString scale x y chars => Sys2Proof.Machine.execDrawString scale x y chars s

end Sys2Proof.Machine
end

