-- ==== Sys2Proof/Machine/Step.lean ====
section
/-! DEFINITION. One step: take what the command port gives and, if that is a legal packet, execute its command to its end
(10_state.md R32, 70_reset_and_hazards.md R176). -/
namespace Sys2Proof.Machine

/-- One step of the machine. -/
def step (s : State) : Host.Outcome State Fault Refusal :=
  match fetch s with
  | .execute i t => exec i t
  | .settled t => .next t

/-- The packet of an opcode-table word submitted so that the next step runs it (log 14). -/
def State.withFetchWord (s : State) (nbits w : Nat) : State := submitFirst (tableWordPacket nbits w) s

end Sys2Proof.Machine
end

