-- ==== Sys2Proof/Safety.lean ====
section
/-! DEFINITION. What holds of PBGE at every command boundary (10_state.md R37 and the rules it collects), as one
invariant of the model's state. -/
namespace Sys2Proof.Machine

/-- What the engine knows of a command held in a Send (log 6): there is a Send outstanding, and STATUS is one in which the
command could start (43_controller.md R132 to R134). -/
def InFlight.fits (w : InFlight) (status : Status) : Prop :=
  w.pending ≠ [] ∧
  match w.command with
  | .init => status ≠ .uninitialized
  | .clear => status = .initialized
  | .flush => status = .initialized

/-- The invariant of the machine. -/
structure State.Inv (s : State) : Prop where
  /-- the parameters are within their bounds (00_scope.md R8 to R10) -/
  cfg_wf : s.cfg.wf
  /-- 10_state.md R25 -/
  cursorX_lt : s.cursorX.toNat < s.cfg.fbW
  /-- 10_state.md R25 -/
  cursorY_lt : s.cursorY.toNat < s.cfg.fbH
  /-- BOUND is 1 exactly when STATUS is not Uninitialized (10_state.md R27) -/
  bound_iff : s.bind.bound = true ↔ s.status ≠ .uninitialized
  /-- a stored binding is one BIND_TRANSPORT accepts (43_controller.md R131) -/
  binding_valid : s.bind.bound = true →
    validDescriptor s.cfg s.bind.cs s.bind.clk s.bind.din s.bind.dc s.bind.rst = true
  /-- BufferAllocationFailed is never produced (43_controller.md R138) -/
  lastError_ne : s.lastError ≠ .bufferAllocationFailed
  /-- FB is in its canonical form (log 3) -/
  fb_wf : s.fb.wf
  /-- no FB access falls outside (20_memory.md R49) -/
  fb_inside : ∀ cell ∈ s.fb, cell.1 < s.cfg.fbBytes
  /-- BUSY is 1 exactly while a command is held (10_state.md R33) -/
  busy_iff : s.busy = s.inFlight.isSome
  /-- the held command fits the lifecycle state -/
  held_fits : ∀ w, s.inFlight = some w → w.fits s.status

end Sys2Proof.Machine
end

