-- ==== Sys2Proof/Certificates/Slice0/Obligations.lean ====
section
/-! DEFINITION. The statements for the provers, and the words they are written in (namespace Sys2Proof.Claims). Every
statement is about every parameter choice, every frame buffer, every answer of the transport. -/
namespace Sys2Proof.Claims
open Sys2Proof.Machine

/-! ## The words of the statements -/

/-- A command that ended: its code in LAST_ERROR and in one more response, BUSY = 0, nothing in flight, all else as it
was (10_state.md R26, R32, R33; 30_encoding.md R68). -/
def reported (code : ResultCode) (data : List Byte) (s : State) : State :=
  { s with
    lastError := code
    responses := s.responses ++ [{ code := code, data := data }]
    busy := false
    inFlight := none }

/-- Records of bytes that were sent and answered ok. -/
def sentOk (isData : Bool) (bs : List Byte) : List TxRecord :=
  bs.map (fun v => { value := v, isData := isData, result := .ok })

/-- Records of tagged bytes that were sent and answered ok. -/
def sentOkTagged (bs : List (Byte × Bool)) : List TxRecord :=
  bs.map (fun b => { value := b.1, isData := b.2, result := .ok })

/-- What STREAM sends (43_controller.md R136): HOME_SEQ as control bytes, then `contents` as data bytes. -/
def streamOf (c : Config) (contents : List Byte) : List (Byte × Bool) :=
  c.homeSeq.map (fun v => (v, false)) ++ contents.map (fun v => (v, true))

/-- FB[0 .. FB_BYTES - 1]. -/
def buffer (s : State) : List Byte := (List.range s.cfg.fbBytes).map s.memRead

/-- `t` is `s` after a command that plots exactly the points of `S` (40_pixel.md R82, 60_exceptions.md R154): OK where all
are in range and InvalidArgument where one is not; the in-range points have the value `on`; every other bit of every byte
is as before; nothing else changes. -/
def Paints (S : Point → Prop) (on : Bool) (s t : State) : Prop :=
  ((∀ p, S p → inRange s.cfg p = true) → t = { reported .ok [] s with fb := t.fb }) ∧
  ((∃ p, S p ∧ inRange s.cfg p = false) → t = { reported .invalidArgument [] s with fb := t.fb }) ∧
  (∀ p, S p → inRange s.cfg p = true → t.pixel p = on) ∧
  (∀ i b, (∀ p, S p → inRange s.cfg p = true → ¬ (pixelIndex s.cfg p = i ∧ pixelBit p = b)) →
    (t.memRead i).getLsbD b = (s.memRead i).getLsbD b)

/-- The packets of 30_encoding.md R62 to R65 as numbers: opcode, length (DRAW_STRING's without its characters), offset of
the `on` byte. -/
def packetTable : List (Nat × Nat × Option Nat) :=
  [(0x00, 1, none), (0x01, 6, none), (0x02, 1, none), (0x03, 1, none), (0x04, 1, none), (0x05, 1, none),
   (0x10, 6, some 5), (0x11, 5, none), (0x20, 10, some 9), (0x21, 10, some 9), (0x22, 10, some 9), (0x23, 8, some 7),
   (0x30, 5, none), (0x31, 1, none), (0x32, 3, none), (0x33, 7, none)]

/-- The expected length of a packet of a row (30_encoding.md R64). -/
def expectedLength (p : List Byte) (row : Nat × Nat × Option Nat) : Nat :=
  row.2.1 + (if row.1 = 0x33 then (p.getD 6 0).toNat else 0)

/-- An illegal packet (30_encoding.md R66): empty, an unassigned opcode, a wrong length, or a reserved `on` byte. -/
def Illegal (p : List Byte) : Prop :=
  p = [] ∨ (∀ row ∈ packetTable, (p.getD 0 0).toNat ≠ row.1) ∨
  ∃ row ∈ packetTable, (p.getD 0 0).toNat = row.1 ∧
    (p.length ≠ expectedLength p row ∨ ∃ k, row.2.2 = some k ∧ 1 < (p.getD k 0).toNat)

/-- The opcode of a command, by name. -/
def opOf : Instr → Op
  | .nop => .nop
  | .bindTransport _ _ _ _ _ => .bindTransport
  | .init => .init
  | .clear => .clear
  | .flush => .flush
  | .getLastError => .getLastError
  | .setPixel _ _ _ => .setPixel
  | .getPixel _ _ => .getPixel
  | .drawLine _ _ _ _ _ => .drawLine
  | .drawRect _ _ _ _ _ => .drawRect
  | .drawFilledRect _ _ _ _ _ => .drawFilledRect
  | .drawCircle _ _ _ _ => .drawCircle
  | .setCursor _ _ => .setCursor
  | .getCursor => .getCursor
  | .drawGlyph _ _ => .drawGlyph
  | .drawString _ _ _ _ => .drawString

/-- The number of data bytes in a command's response (30_encoding.md R68). -/
def dataLength (i : Instr) : Nat :=
  if opOf i = .getCursor then 4 else if opOf i = .getPixel ∨ opOf i = .getLastError then 1 else 0

/-- The commands of 60_exceptions.md R155. -/
def needsInitialized (i : Instr) : Bool :=
  decide (opOf i ∈ [Op.clear, .flush, .setPixel, .getPixel, .drawLine, .drawRect, .drawFilledRect, .drawCircle,
    .setCursor, .getCursor, .drawGlyph, .drawString])

/-- The rows of 60_exceptions.md R151. -/
def mayReport (i : Instr) : List ResultCode :=
  if opOf i = .nop ∨ opOf i = .getLastError then [.ok]
  else if opOf i = .bindTransport then [.ok, .invalidConfig]
  else if opOf i = .init then [.ok, .transportNotBound, .transportFailure]
  else if opOf i = .clear ∨ opOf i = .flush then [.ok, .notInitialized, .transportFailure]
  else if opOf i = .getCursor then [.ok, .notInitialized]
  else [.ok, .notInitialized, .invalidArgument]

/-- The commands that call Send (60_exceptions.md R158). -/
def sends (i : Instr) : Bool := decide (opOf i ∈ [Op.init, .clear, .flush])

/-- The commands that write FB (10_state.md R28): those that plot, and CLEAR. -/
def writesFb (i : Instr) : Bool :=
  decide (opOf i ∈ [Op.clear, .setPixel, .drawLine, .drawRect, .drawFilledRect, .drawCircle, .drawGlyph, .drawString])

/-- The commands that write the cursor (10_state.md R25). -/
def writesCursor (i : Instr) : Bool := decide (opOf i ∈ [Op.setCursor, .drawGlyph, .drawString, .clear])

/-- The command that writes BIND_CFG (10_state.md R27). -/
def writesBinding (i : Instr) : Bool := decide (opOf i = .bindTransport)

/-- VALID_DESCRIPTOR in the words of 43_controller.md R137. -/
def GoodDescriptor (c : Config) (cs clk din dc rst : Byte) : Prop :=
  cs.toNat < c.pinCount ∧ clk.toNat < c.pinCount ∧ din.toNat < c.pinCount ∧ dc.toNat < c.pinCount ∧
  (rst = 0xFF ∨ rst.toNat < c.pinCount) ∧
  cs ≠ clk ∧ cs ≠ din ∧ cs ≠ dc ∧ clk ≠ din ∧ clk ≠ dc ∧ din ≠ dc ∧
  (rst ≠ 0xFF → rst ≠ cs ∧ rst ≠ clk ∧ rst ≠ din ∧ rst ≠ dc)

/-- The pixel (x, y) lies in the buffer (40_pixel.md R81). -/
def Inside (c : Config) (x y : Int) : Prop := 0 ≤ x ∧ x < (c.fbW : Int) ∧ 0 ≤ y ∧ y < (c.fbH : Int)

/-- The character has a glyph (20_memory.md R45). -/
def HasGlyph (c : Config) (code : Byte) : Prop := c.glyphBase ≤ code.toNat ∧ code.toNat < c.glyphBase + c.glyphCount

/-- The block of 41_raster.md R93: rows y .. y + h - 1, columns x .. x + w. -/
def InBlock (x y : Int) (w h : Nat) (p : Point) : Prop := x ≤ p.1 ∧ p.1 ≤ x + w ∧ y ≤ p.2 ∧ p.2 ≤ y + h - 1

/-- The boundary of that block. -/
def OnBoundary (x y : Int) (w h : Nat) (p : Point) : Prop :=
  InBlock x y w h p ∧ (p.1 = x ∨ p.1 = x + w ∨ p.2 = y ∨ p.2 = y + h - 1)

/-- The points BLIT plots (42_text.md R112, 20_memory.md R45), from the glyph table itself. -/
def GlyphPoint (s : State) (code scale : Byte) (p : Point) : Prop :=
  ∃ column row : Nat, column < s.cfg.glyphCols * scale.toNat ∧ row < s.cfg.glyphRows * scale.toNat ∧
    (((s.cfg.glyphRom.getD (code.toNat - s.cfg.glyphBase) []).getD (column / scale.toNat) 0).getLsbD
      (row / scale.toNat)) = true ∧
    p = ((s.cursorX.toNat : Int) + column, (s.cursorY.toNat : Int) + row)

/-- Where ADVANCE takes the cursor (42_text.md R114). -/
def Advances (s t : State) (scale : Byte) : Prop :=
  (s.cursorX.toNat + s.cfg.glyphCols * scale.toNat + 1 < s.cfg.fbW →
    t.cursorX.toNat = s.cursorX.toNat + s.cfg.glyphCols * scale.toNat + 1 ∧ t.cursorY = s.cursorY) ∧
  (s.cfg.fbW ≤ s.cursorX.toNat + s.cfg.glyphCols * scale.toNat + 1 →
    s.cursorY.toNat + s.cfg.glyphRows * scale.toNat + 1 < s.cfg.fbH →
    t.cursorX = 0 ∧ t.cursorY.toNat = s.cursorY.toNat + s.cfg.glyphRows * scale.toNat + 1) ∧
  (s.cfg.fbW ≤ s.cursorX.toNat + s.cfg.glyphCols * scale.toNat + 1 →
    s.cfg.fbH ≤ s.cursorY.toNat + s.cfg.glyphRows * scale.toNat + 1 → t.cursorX = 0 ∧ t.cursorY = 0)

/-- `k` steps of the machine. -/
def stepTimes : Nat → State → Host.Outcome State Fault Refusal
  | 0, s => .next s
  | k + 1, s =>
    match step s with
    | .next t => stepTimes k t
    | .fault r => .fault r
    | .refused r => .refused r

/-- Commands executed one after the other. -/
def execAll : List Instr → State → Host.Outcome State Fault Refusal
  | [], s => .next s
  | i :: is, s =>
    match exec i s with
    | .next t => execAll is t
    | .fault r => .fault r
    | .refused r => .refused r

end Sys2Proof.Claims

open Sys2Proof Sys2Proof.Machine Sys2Proof.Claims

/-! ## Packets -/

/-- 30_encoding.md R61 to R63, R69: no bit of any command is lost between the encoder and the decoder. -/
def Obligations.EncodedCommandDecodesToItself : Prop :=
  ∀ i : Instr, i.wellFormed = true → decode (encode i) = .ok i

/-- 30_encoding.md R62, R64, R65, R69: each legal packet is the packet of exactly one command, so no packet has two
meanings and no reserved value is read as a legal one. -/
def Obligations.DecodedPacketIsThatCommandsPacket : Prop :=
  ∀ (p : List Byte) (i : Instr), decode p = .ok i → i.wellFormed = true ∧ encode i = p

/-- 30_encoding.md R66: which packets are illegal, and all that an illegal packet does, whatever STATUS is. -/
def Obligations.IllegalPacketOnlyReportsIllegalCommand : Prop :=
  (∀ p, Illegal p ↔ ∃ e, decode p = .error e) ∧
  ∀ p (s : State) rest, Illegal p → s.busy = false → s.inbox = .packet p :: rest →
    step s = .next { reported .illegalCommand [] s with inbox := rest }

/-- 30_encoding.md R62, R63: a packet of every row of the opcode map, written out from its format, every field with a
value of its own. -/
def Obligations.WrittenOutPacketsDecode : Prop :=
  decode [0x00] = .ok .nop ∧
  decode [0x01, 0x00, 0x01, 0x02, 0x03, 0xFF] = .ok (.bindTransport 0 1 2 3 0xFF) ∧
  decode [0x02] = .ok .init ∧
  decode [0x03] = .ok .clear ∧
  decode [0x04] = .ok .flush ∧
  decode [0x05] = .ok .getLastError ∧
  decode [0x10, 0xFF, 0xFF, 0x0A, 0x00, 0x01] = .ok (.setPixel 0xFFFF 10 true) ∧
  decode [0x11, 0x01, 0x02, 0x03, 0x04] = .ok (.getPixel 0x0201 0x0403) ∧
  decode [0x20, 0x01, 0x02, 0x03, 0x04, 0x05, 0x06, 0x07, 0x08, 0x00] =
    .ok (.drawLine 0x0201 0x0403 0x0605 0x0807 false) ∧
  decode [0x21, 0x11, 0x12, 0x13, 0x14, 0x15, 0x16, 0x17, 0x18, 0x01] =
    .ok (.drawRect 0x1211 0x1413 0x1615 0x1817 true) ∧
  decode [0x22, 0x21, 0x22, 0x23, 0x24, 0x25, 0x26, 0x27, 0x28, 0x00] =
    .ok (.drawFilledRect 0x2221 0x2423 0x2625 0x2827 false) ∧
  decode [0x23, 0x0A, 0x00, 0x0B, 0x00, 0x03, 0x80, 0x01] = .ok (.drawCircle 10 11 0x8003 true) ∧
  decode [0x30, 0x01, 0x02, 0x03, 0x04] = .ok (.setCursor 0x0201 0x0403) ∧
  decode [0x31] = .ok .getCursor ∧
  decode [0x32, 0x41, 0x02] = .ok (.drawGlyph 0x41 2) ∧
  decode [0x33, 0x02, 0x03, 0x00, 0x04, 0x00, 0x02, 0x41, 0x42] = .ok (.drawString 2 3 4 [0x41, 0x42])

/-- 70_reset_and_hazards.md R176: a step whose port begins with a legal packet accepts it (BUSY = 1, the packet taken
from the port) and is that command's execution. -/
def Obligations.StepExecutesTheDecodedCommand : Prop :=
  ∀ (s : State) (p : List Byte) (rest : List HostEvent) (i : Instr), s.busy = false →
    s.inbox = .packet p :: rest → decode p = .ok i → step s = exec i { s with inbox := rest, busy := true }

/-! ## Results -/

/-- 10_state.md R26, for a command that ends in its own step, for one that was held in a Send, and for an illegal
packet. -/
def Obligations.LastErrorIsTheResponsesCode : Prop :=
  (∀ (i : Instr) (s t : State), exec i s = .next t → t.busy = false →
    ∃ code data, t.responses = s.responses ++ [{ code := code, data := data }] ∧
      (i ≠ .getLastError → t.lastError = code) ∧ (i = .getLastError → t.lastError = s.lastError)) ∧
  (∀ s t : State, s.busy = true → step s = .next t → t.busy = false →
    ∃ code data, t.responses = s.responses ++ [{ code := code, data := data }] ∧ t.lastError = code) ∧
  (∀ (s : State) p rest, Illegal p → s.busy = false → s.inbox = .packet p :: rest →
    ∃ t, step s = .next t ∧ t.responses = s.responses ++ [{ code := .illegalCommand, data := [] }] ∧
      t.lastError = .illegalCommand)

/-- 30_encoding.md R68: one response a command, of the command's data length, zero bytes with an error; none while the
command is held in a Send. -/
def Obligations.OneResponseOfFixedLength : Prop :=
  ∀ (i : Instr) (s t : State), exec i s = .next t →
    (t.busy = false → ∃ r, t.responses = s.responses ++ [r] ∧ r.data.length = dataLength i ∧
      (r.code ≠ .ok → ∀ b ∈ r.data, b = 0)) ∧
    (t.busy = true → t.responses = s.responses)

/-- 60_exceptions.md R151 (the spec's own derivation) and 43_controller.md R138: a command reports no code outside its
row, and BufferAllocationFailed is in no row. -/
def Obligations.CommandsReportOnlyTheirCodes : Prop :=
  (∀ (i : Instr) (s t : State), exec i s = .next t → t.busy = false →
    ∃ r, t.responses = s.responses ++ [r] ∧ r.code ∈ mayReport i) ∧
  (∀ s t : State, s.busy = true → step s = .next t → t.busy = false →
    ∃ r, t.responses = s.responses ++ [r] ∧ r.code ∈ [ResultCode.ok, ResultCode.transportFailure])

/-- 60_exceptions.md R155: which commands need Initialized, and that without it they do nothing but say so. -/
def Obligations.CommandsThatNeedInitializedDoNothingWithoutIt : Prop :=
  (∀ (i : Instr) (s : State), needsInitialized i = true → s.status ≠ .initialized →
    exec i s = .next (reported .notInitialized (List.replicate (dataLength i) 0) s)) ∧
  (∀ (i : Instr) (s t : State), needsInitialized i = false → exec i s = .next t →
    ∀ r, t.responses = s.responses ++ [r] → r.code ≠ .notInitialized) ∧
  (∀ s : State, s.status = .uninitialized → exec .init s = .next (reported .transportNotBound [] s))

/-- 10_state.md R22, R23: only a valid BIND_TRANSPORT and an INIT whose Sends all returned ok move STATUS, in the step
the command ends in. -/
def Obligations.StatusMovesOnlyByBindAndInit : Prop :=
  (∀ (i : Instr) (s t : State), exec i s = .next t →
    match i with
    | .bindTransport cs clk din dc rst =>
      (GoodDescriptor s.cfg cs clk din dc rst → t.status = .portsBound) ∧
      (¬ GoodDescriptor s.cfg cs clk din dc rst → t.status = s.status)
    | .init =>
      t.status =
        if s.status ≠ .uninitialized ∧ t.busy = false ∧ t.lastError = .ok then .initialized else s.status
    | _ => t.status = s.status) ∧
  (∀ (s t : State) (w : InFlight), s.busy = true → s.inFlight = some w → step s = .next t →
    t.status = if w.command = .init ∧ t.busy = false ∧ t.lastError = .ok then .initialized else s.status)

/-- 60_exceptions.md R158, 10_state.md R30: TX is an event history, and among the commands only INIT, CLEAR and FLUSH
append to it; the others do not touch the transport. A step that goes on with a held command (log 6) appends to TX too,
and writes neither the cursor nor BIND_CFG nor FB. Of all steps only the reset event (10_state.md R36) does more to TX
than append. -/
def Obligations.OnlySendingCommandsExtendTx : Prop :=
  (∀ (i : Instr) (s t : State), exec i s = .next t →
    (∃ records, t.tx = s.tx ++ records) ∧
    (sends i = false → t.tx = s.tx ∧ t.answers = s.answers ∧ t.draws = s.draws)) ∧
  (∀ s t : State, s.busy = true → step s = .next t →
    (∃ records, t.tx = s.tx ++ records) ∧ t.cursorX = s.cursorX ∧ t.cursorY = s.cursorY ∧ t.bind = s.bind ∧
    t.fb = s.fb ∧ t.resets = s.resets) ∧
  (∀ s t : State, (s.busy = true ∨ ∀ rest, s.inbox ≠ .reset :: rest) → step s = .next t →
    ∃ records, t.tx = s.tx ++ records)

/-- 10_state.md R25, R27, R28: the writers of the cursor, of BIND_CFG and of FB; no command touches the port, the
parameters or the reset number. -/
def Obligations.EachRegisterHasItsWritersOnly : Prop :=
  ∀ (i : Instr) (s t : State), exec i s = .next t →
    (writesFb i = false → t.fb = s.fb) ∧
    (writesCursor i = false → t.cursorX = s.cursorX ∧ t.cursorY = s.cursorY) ∧
    (writesBinding i = false → t.bind = s.bind) ∧
    t.inbox = s.inbox ∧ t.cfg = s.cfg ∧ t.resets = s.resets

/-- 10_state.md R29, R37, 70_reset_and_hazards.md R172: no step of any kind changes the glyph table or another parameter,
the reset event included. -/
def Obligations.StepsKeepGlyphRomAndParameters : Prop :=
  ∀ s t : State, step s = .next t → t.cfg = s.cfg

/-! ## The invariant and reset -/

/-- 10_state.md R37 with R25, R27, 20_memory.md R49 and 43_controller.md R138: every step keeps the invariant. -/
def Obligations.StepKeepsTheInvariant : Prop := ∀ s t : State, s.Inv → step s = .next t → t.Inv

/-- The invariant holds after reset, for all parameters within their bounds (`State.reset` takes the fixture's, a choice
of the model, log 2). -/
def Obligations.ResetMeetsTheInvariant : Prop :=
  (∀ (c : Config) n inbox answers draws, c.wf → (State.resetWith c n inbox answers draws).Inv) ∧ State.reset.Inv

/-- 10_state.md R36, 70_reset_and_hazards.md R170 to R172: what the reset event leaves. That the port and the transport
keep what they hold, and that each reset draws FB anew, is the model's reading (log 3, log 8). -/
def Obligations.ResetEventRestoresResetValues : Prop :=
  ∀ (s : State) rest, s.busy = false → s.inbox = .reset :: rest →
    ∃ t, step s = .next t ∧ t.status = .uninitialized ∧ t.lastError = .ok ∧ t.cursorX = 0 ∧ t.cursorY = 0 ∧
      t.bind.bound = false ∧ t.tx = [] ∧ t.busy = false ∧ t.inFlight = none ∧ t.cfg = s.cfg ∧
      t.inbox = rest ∧ t.answers = s.answers ∧ t.draws = s.draws ∧
      ∀ i, t.memRead i = Config.resetByte (s.resets + 1) i

/-- 60_exceptions.md R152, R161, R167: no command and no step ends in a trap or a stop, and an idle engine retains all
its state. -/
def Obligations.NothingStopsTheEngine : Prop :=
  (∀ (i : Instr) (s : State), ∃ t, exec i s = .next t) ∧ (∀ s : State, ∃ t, step s = .next t) ∧
  (∀ s : State, s.busy = false → s.inbox = [] → step s = .next s)

/-! ## The handshake and an outstanding Send -/

/-- 70_reset_and_hazards.md R176, 10_state.md R33: while BUSY = 1 nothing is taken from the port, and a command that stays
held has reported nothing. -/
def Obligations.BusyEngineTakesNothingFromThePort : Prop :=
  ∀ s t : State, s.busy = true → step s = .next t →
    t.inbox = s.inbox ∧
    (t.busy = true → t.responses = s.responses ∧ t.lastError = s.lastError ∧ t.status = s.status ∧ t.fb = s.fb)

/-- 60_exceptions.md R159, in the terms of the model's held state (log 6, DEDUCED) and its laid-down answers (log 5,
DESIGN CHOICE): as long as the outstanding Send does not return, however long that is, the engine is held: BUSY stays 1,
no response, no packet accepted, nothing changes but that the answers "not yet" go by. -/
def Obligations.SendThatNeverReturnsHoldsTheEngine : Prop :=
  ∀ (k : Nat) (s : State) (w : InFlight) (more : List SendAnswer), s.busy = true → s.inFlight = some w →
    w.pending ≠ [] → s.answers = List.replicate k .notYet ++ more →
    stepTimes k s = .next { s with answers := more }

/-- 60_exceptions.md R158, R159 (the model's wait, log 6): an answer that comes late changes nothing but the number of
steps; the command then ends as it would have without the wait. -/
def Obligations.LateAnswerChangesNothingElse : Prop :=
  ∀ (i : Instr) (s t : State) (n : Nat) (later : List SendAnswer), sends i = true →
    exec i { s with answers := List.replicate n .ok ++ .notYet :: later } = .next t → t.busy = true →
    step t = exec i { s with answers := List.replicate n .ok ++ later }

/-! ## The device controller -/

/-- 43_controller.md R130. -/
def Obligations.NopReportsOkAndClearsAStaleError : Prop :=
  decode [0x00] = .ok .nop ∧ (∀ b bs, ∃ e, decode (0x00 :: b :: bs) = .error e) ∧
  ∀ s : State, exec .nop s = .next (reported .ok [] s)

/-- 43_controller.md R137, and what BIND_TRANSPORT does with it in every STATUS (R131), with its packet. -/
def Obligations.BindTransportAcceptsExactlyValidDescriptors : Prop :=
  ∀ (cs clk din dc rst : Byte) (s : State),
    decode [0x01, cs, clk, din, dc, rst] = .ok (.bindTransport cs clk din dc rst) ∧
    (validDescriptor s.cfg cs clk din dc rst = true ↔ GoodDescriptor s.cfg cs clk din dc rst) ∧
    (GoodDescriptor s.cfg cs clk din dc rst →
      exec (.bindTransport cs clk din dc rst) s =
        .next { reported .ok [] s with
          bind := { cs := cs, clk := clk, din := din, dc := dc, rst := rst, bound := true }
          status := .portsBound }) ∧
    (¬ GoodDescriptor s.cfg cs clk din dc rst →
      exec (.bindTransport cs clk din dc rst) s = .next (reported .invalidConfig [] s))

/-- 43_controller.md R132: every Send ok. -/
def Obligations.InitRunsTheHandshake : Prop :=
  ∀ (s : State) rest, s.status ≠ .uninitialized →
    s.answers = List.replicate s.cfg.initSeq.length .ok ++ rest →
    exec .init s =
      .next { reported .ok [] s with
        status := .initialized
        tx := s.tx ++ sentOk false s.cfg.initSeq
        answers := rest }

/-- 43_controller.md R132, 60_exceptions.md R153: the handshake stops at the failing Send, and STATUS stays. -/
def Obligations.InitStopsAtTheFailingSend : Prop :=
  ∀ (s : State) pre b post rest, s.status ≠ .uninitialized → s.cfg.initSeq = pre ++ b :: post →
    s.answers = List.replicate pre.length .ok ++ .fail :: rest →
    exec .init s =
      .next { reported .transportFailure [] s with
        tx := s.tx ++ sentOk false pre ++ [{ value := b, isData := false, result := .fail }]
        answers := rest }

/-- 60_exceptions.md R159, 10_state.md R33 (the model's held state, log 6): a Send of the handshake that has not returned
leaves BUSY at 1, no response, STATUS and LAST_ERROR as they were, and the rest of the handshake to be sent. -/
def Obligations.InitIsHeldByAnOutstandingSend : Prop :=
  ∀ (s : State) pre b post rest, s.status ≠ .uninitialized → s.cfg.initSeq = pre ++ b :: post →
    s.answers = List.replicate pre.length .ok ++ .notYet :: rest →
    exec .init s =
      .next { s with
        busy := true
        inFlight := some { command := .init, pending := (b :: post).map (fun v => { value := v, isData := false }) }
        tx := s.tx ++ sentOk false pre
        answers := rest }

/-- 43_controller.md R133, R136, 20_memory.md R47: every Send ok. Every byte of FB, padding bits too, is zero, the cursor
is at the origin, and the transport got HOME_SEQ and FB_BYTES zero bytes. -/
def Obligations.ClearZeroesHomesAndRepaints : Prop :=
  ∀ (s : State) rest, s.status = .initialized →
    s.answers = List.replicate (s.cfg.homeSeq.length + s.cfg.fbBytes) .ok ++ rest →
    ∃ t, exec .clear s = .next t ∧
      t = { reported .ok [] s with
        fb := t.fb
        cursorX := 0
        cursorY := 0
        tx := s.tx ++ sentOk false s.cfg.homeSeq ++ sentOk true (List.replicate s.cfg.fbBytes 0x00)
        answers := rest } ∧
      (∀ i, i < s.cfg.fbBytes → t.memRead i = 0x00) ∧ (∀ i, s.cfg.fbBytes ≤ i → t.memRead i = s.memRead i)

/-- 43_controller.md R133, 60_exceptions.md R153: a Send that fails during CLEAR stops the stream and undoes nothing. -/
def Obligations.FailedClearStaysCleared : Prop :=
  ∀ (s : State) pre b post rest, s.status = .initialized →
    streamOf s.cfg (List.replicate s.cfg.fbBytes 0x00) = pre ++ b :: post →
    s.answers = List.replicate pre.length .ok ++ .fail :: rest →
    ∃ t, exec .clear s = .next t ∧
      t = { reported .transportFailure [] s with
        fb := t.fb
        cursorX := 0
        cursorY := 0
        tx := s.tx ++ sentOkTagged pre ++ [{ value := b.1, isData := b.2, result := .fail }]
        answers := rest } ∧
      (∀ i, i < s.cfg.fbBytes → t.memRead i = 0x00) ∧ (∀ i, s.cfg.fbBytes ≤ i → t.memRead i = s.memRead i)

/-- 60_exceptions.md R159, 43_controller.md R133, R136 (the model's held state, log 6): a Send of CLEAR's stream that has
not returned leaves BUSY at 1, no response, STATUS and LAST_ERROR as they were, FB already zero and the cursor already
home, and the rest of the stream to be sent. -/
def Obligations.ClearIsHeldByAnOutstandingSend : Prop :=
  ∀ (s : State) pre b post rest, s.status = .initialized →
    streamOf s.cfg (List.replicate s.cfg.fbBytes 0x00) = pre ++ b :: post →
    s.answers = List.replicate pre.length .ok ++ .notYet :: rest →
    ∃ t, exec .clear s = .next t ∧
      t = { s with
        fb := t.fb
        cursorX := 0
        cursorY := 0
        busy := true
        inFlight := some { command := .clear, pending := (b :: post).map (fun v => { value := v.1, isData := v.2 }) }
        tx := s.tx ++ sentOkTagged pre
        answers := rest } ∧
      (∀ i, i < s.cfg.fbBytes → t.memRead i = 0x00) ∧ (∀ i, s.cfg.fbBytes ≤ i → t.memRead i = s.memRead i)

/-- 43_controller.md R134, R136: every Send ok. The transport got HOME_SEQ and then FB in ascending order; FB and the
cursor are unchanged. -/
def Obligations.FlushSendsTheFrameBuffer : Prop :=
  ∀ (s : State) rest, s.status = .initialized →
    s.answers = List.replicate (s.cfg.homeSeq.length + s.cfg.fbBytes) .ok ++ rest →
    exec .flush s =
      .next { reported .ok [] s with
        tx := s.tx ++ sentOk false s.cfg.homeSeq ++ sentOk true (buffer s)
        answers := rest }

/-- 43_controller.md R134, R136: a Send that fails during FLUSH stops the stream; FB is not modified. -/
def Obligations.FailedFlushLeavesTheBuffer : Prop :=
  ∀ (s : State) pre b post rest, s.status = .initialized → streamOf s.cfg (buffer s) = pre ++ b :: post →
    s.answers = List.replicate pre.length .ok ++ .fail :: rest →
    exec .flush s =
      .next { reported .transportFailure [] s with
        tx := s.tx ++ sentOkTagged pre ++ [{ value := b.1, isData := b.2, result := .fail }]
        answers := rest }

/-- 60_exceptions.md R159, 43_controller.md R134, R136 (the model's held state, log 6): a Send of FLUSH's stream that has
not returned leaves BUSY at 1, no response, the rest of the stream to be sent, and everything else as it was. -/
def Obligations.FlushIsHeldByAnOutstandingSend : Prop :=
  ∀ (s : State) pre b post rest, s.status = .initialized → streamOf s.cfg (buffer s) = pre ++ b :: post →
    s.answers = List.replicate pre.length .ok ++ .notYet :: rest →
    exec .flush s =
      .next { s with
        busy := true
        inFlight := some { command := .flush, pending := (b :: post).map (fun v => { value := v.1, isData := v.2 }) }
        tx := s.tx ++ sentOkTagged pre
        answers := rest }

/-- 20_memory.md R54 (the spec's own derivation): after a CLEAR or FLUSH that returns OK, whatever the answers were, the
data bytes it sent are FB, and every byte it sent was answered ok. -/
def Obligations.DisplayMirrorsBufferAfterOk : Prop :=
  ∀ (i : Instr) (s t : State), i = .clear ∨ i = .flush → exec i s = .next t → t.busy = false → t.lastError = .ok →
    ∃ records, t.tx = s.tx ++ records ∧ (∀ r ∈ records, r.result = .ok) ∧
      (records.filter (fun r => r.isData)).map (fun r => r.value) = buffer t

/-- 43_controller.md R135, with its packet and the codes' numbers of 60_exceptions.md R150. -/
def Obligations.GetLastErrorReturnsTheCodeAndKeepsIt : Prop :=
  decode [0x05] = .ok .getLastError ∧ (∀ b bs, ∃ e, decode (0x05 :: b :: bs) = .error e) ∧
  (∀ s : State, exec .getLastError s =
    .next { s with
      responses := s.responses ++ [{ code := .ok, data := [s.lastError.toByte] }]
      busy := false
      inFlight := none }) ∧
  [ResultCode.ok, .notInitialized, .transportNotBound, .invalidConfig, .invalidArgument, .bufferAllocationFailed,
    .transportFailure, .illegalCommand].map ResultCode.toByte = [0, 1, 2, 3, 4, 5, 6, 7]

/-! ## The pixel engine -/

/-- 40_pixel.md R83 with R80: the packet, the checks in their order, and the one bit written. -/
def Obligations.SetPixelWritesExactlyOneBit : Prop :=
  (∀ x0 x1 y0 y1 : Byte, decode [0x10, x0, x1, y0, y1, 0x00] = .ok (.setPixel (x1 ++ x0) (y1 ++ y0) false) ∧
    decode [0x10, x0, x1, y0, y1, 0x01] = .ok (.setPixel (x1 ++ x0) (y1 ++ y0) true) ∧
    ∀ v : Byte, 1 < v.toNat → ∃ e, decode [0x10, x0, x1, y0, y1, v] = .error e) ∧
  ∀ (x y : Half) (on : Bool) (s : State),
    (s.status ≠ .initialized → exec (.setPixel x y on) s = .next (reported .notInitialized [] s)) ∧
    (s.status = .initialized → ¬ Inside s.cfg x.toInt y.toInt →
      exec (.setPixel x y on) s = .next (reported .invalidArgument [] s)) ∧
    (s.status = .initialized → Inside s.cfg x.toInt y.toInt →
      ∃ t, exec (.setPixel x y on) s = .next t ∧ t = { reported .ok [] s with fb := t.fb } ∧
        ∀ i b, (t.memRead i).getLsbD b =
          if i = (y.toInt.toNat / 8) * s.cfg.fbW + x.toInt.toNat ∧ b = y.toInt.toNat % 8 then on
          else (s.memRead i).getLsbD b)

/-- 40_pixel.md R84 with R80: the packet, the checks in their order, the pixel as a data byte, a zero byte with an error;
nothing else is written. -/
def Obligations.GetPixelReturnsThePixel : Prop :=
  (∀ x0 x1 y0 y1 : Byte, decode [0x11, x0, x1, y0, y1] = .ok (.getPixel (x1 ++ x0) (y1 ++ y0))) ∧
  ∀ (x y : Half) (s : State),
    (s.status ≠ .initialized → exec (.getPixel x y) s = .next (reported .notInitialized [0x00] s)) ∧
    (s.status = .initialized → Inside s.cfg x.toInt y.toInt →
      exec (.getPixel x y) s =
        .next (reported .ok
          [if (s.memRead ((y.toInt.toNat / 8) * s.cfg.fbW + x.toInt.toNat)).getLsbD (y.toInt.toNat % 8) then 0x01
           else 0x00] s)) ∧
    (s.status = .initialized → ¬ Inside s.cfg x.toInt y.toInt →
      exec (.getPixel x y) s = .next (reported .invalidArgument [0x00] s))

/-- 95_test_vectors.md W-1 (40_pixel.md R83, R84): what SET_PIXEL sets or clears, GET_PIXEL returns, from every frame
buffer. -/
def Obligations.PixelRoundTrip : Prop :=
  ∀ (x y : Half) (on : Bool) (s : State), s.status = .initialized → Inside s.cfg x.toInt y.toInt →
    ∃ t u, exec (.setPixel x y on) s = .next t ∧ exec (.getPixel x y) t = .next u ∧
      u.responses = t.responses ++ [{ code := .ok, data := [if on then 0x01 else 0x00] }] ∧ u.fb = t.fb

/-- 40_pixel.md R80, R81, 20_memory.md R46, R49: the addressing formulas, every pixel inside FB, and no two pixels in one
bit. -/
def Obligations.PixelsAreDistinctBitsInsideTheBuffer : Prop :=
  ∀ (c : Config) (p q : Point),
    (inRange c p = true ↔ Inside c p.1 p.2) ∧
    (inRange c p = true →
      (pixelIndex c p : Int) = (p.2 / 8) * c.fbW + p.1 ∧ (pixelBit p : Int) = p.2 % 8 ∧
      pixelIndex c p < c.fbBytes) ∧
    (inRange c p = true → inRange c q = true → pixelIndex c p = pixelIndex c q → pixelBit p = pixelBit q → p = q)

/-- 40_pixel.md R82 (the spec's own derivation), 20_memory.md R48: plots are idempotent and their order cannot matter;
what a list of plots leaves depends on its set of points alone. -/
def Obligations.PlotsDependOnTheirSetOnly : Prop :=
  ∀ (on : Bool) (r : Run) (ps qs : List Point), r.state.fb.wf → (∀ p, p ∈ ps ↔ p ∈ qs) →
    plotAll on r ps = plotAll on r qs

/-! ## The rasterizer -/

/-- 41_raster.md R91 with R90: DRAW_LINE plots the points of LINE and nothing else. -/
def Obligations.DrawLinePaintsItsPoints : Prop :=
  ∀ (x1 y1 x2 y2 : Half) (on : Bool) (s : State), s.status = .initialized →
    ∃ t, exec (.drawLine x1 y1 x2 y2 on) s = .next t ∧
      Paints (fun p => p ∈ linePoints x1.toInt y1.toInt x2.toInt y2.toInt) on s t

/-- 41_raster.md R92 (a) to (e) (the spec's own derivation): LINE ends after max(dx, dy) + 1 plots at its end point, each
plot a new neighbour of the one before, and it is not symmetric. -/
def Obligations.LineWalksFromEndToEnd : Prop :=
  (∀ x1 y1 x2 y2 : Int,
    (linePoints x1 y1 x2 y2).length = max (x2 - x1).natAbs (y2 - y1).natAbs + 1 ∧
    (linePoints x1 y1 x2 y2).Nodup ∧
    (linePoints x1 y1 x2 y2).head? = some (x1, y1) ∧
    (linePoints x1 y1 x2 y2).getLast? = some (x2, y2) ∧
    ∀ (k : Nat) (p q : Point), (linePoints x1 y1 x2 y2)[k]? = some p → (linePoints x1 y1 x2 y2)[k + 1]? = some q →
      p ≠ q ∧ (q.1 - p.1).natAbs ≤ 1 ∧ (q.2 - p.2).natAbs ≤ 1) ∧
  linePoints 0 0 2 1 = [(0, 0), (1, 0), (2, 1)] ∧ linePoints 2 1 0 0 = [(2, 1), (1, 1), (0, 0)]

/-- 41_raster.md R90 in closed form: the loop's k-th point is k steps along the longer side, and along the shorter side
the ideal line rounded to the nearest pixel, a tie going to the pixel nearer the start. -/
def Obligations.LineIsTheRoundedSegment : Prop :=
  ∀ x1 y1 x2 y2 : Int,
    ((y2 - y1).natAbs ≤ (x2 - x1).natAbs →
      linePoints x1 y1 x2 y2 =
        (List.range ((x2 - x1).natAbs + 1)).map (fun k =>
          (x1 + (x2 - x1).sign * (k : Int),
           y1 + (y2 - y1).sign *
            ((2 * (k : Int) * (y2 - y1).natAbs + (x2 - x1).natAbs - 1) / (2 * (x2 - x1).natAbs))))) ∧
    ((x2 - x1).natAbs < (y2 - y1).natAbs →
      linePoints x1 y1 x2 y2 =
        (List.range ((y2 - y1).natAbs + 1)).map (fun k =>
          (x1 + (x2 - x1).sign *
            ((2 * (k : Int) * (x2 - x1).natAbs + (y2 - y1).natAbs - 1) / (2 * (y2 - y1).natAbs)),
           y1 + (y2 - y1).sign * (k : Int))))

/-- 41_raster.md R93, with R94 and R96. -/
def Obligations.RectanglesCoverTheirExtent : Prop :=
  ∀ (x y : Int) (w h : Nat) (p : Point),
    (p ∈ filledRectPoints x y w h ↔ InBlock x y w h p) ∧
    (p ∈ rectPoints x y w h ↔ OnBoundary x y w h p) ∧
    (h = 0 → filledRectPoints x y w h = [] ∧ rectPoints x y w h = [])

/-- 41_raster.md R95: DRAW_RECT paints the boundary of the block. -/
def Obligations.DrawRectPaintsTheBoundary : Prop :=
  ∀ (x y w h : Half) (on : Bool) (s : State), s.status = .initialized →
    ∃ t, exec (.drawRect x y w h on) s = .next t ∧
      Paints (OnBoundary x.toInt y.toInt w.toNat h.toNat) on s t

/-- 41_raster.md R96: DRAW_FILLED_RECT paints the whole block. -/
def Obligations.DrawFilledRectPaintsTheBlock : Prop :=
  ∀ (x y w h : Half) (on : Bool) (s : State), s.status = .initialized →
    ∃ t, exec (.drawFilledRect x y w h on) s = .next t ∧
      Paints (InBlock x.toInt y.toInt w.toNat h.toNat) on s t

/-- 41_raster.md R99 with R98: DRAW_CIRCLE plots the points of CIRCLE and nothing else. -/
def Obligations.DrawCirclePaintsItsPoints : Prop :=
  ∀ (cx cy r : Half) (on : Bool) (s : State), s.status = .initialized →
    ∃ t, exec (.drawCircle cx cy r on) s = .next t ∧
      Paints (fun p => p ∈ circlePoints cx.toInt cy.toInt r.toNat) on s t

/-- 41_raster.md R98, R99: the eightfold symmetry, and that the centre is plotted for r = 0 alone. -/
def Obligations.CircleIsSymmetricAndHollow : Prop :=
  ∀ (cx cy a b : Int) (r : Nat),
    ((cx + a, cy + b) ∈ circlePoints cx cy r ↔ (cx - a, cy + b) ∈ circlePoints cx cy r) ∧
    ((cx + a, cy + b) ∈ circlePoints cx cy r ↔ (cx + a, cy - b) ∈ circlePoints cx cy r) ∧
    ((cx + a, cy + b) ∈ circlePoints cx cy r ↔ (cx + b, cy + a) ∈ circlePoints cx cy r) ∧
    ((cx, cy) ∈ circlePoints cx cy r ↔ r = 0)

/-- 41_raster.md R98: iteration k has y = k, the decision value is the midpoint test of the ideal circle, and every
plotted point misses that circle by less than a pixel. -/
def Obligations.CircleStepsFollowTheIdealCircle : Prop :=
  ∀ (r k : Nat) (x y d : Int), (circleSteps r)[k]? = some (x, y, d) →
    y = k ∧ y ≤ x ∧ x ≤ r ∧ d = (y + 1) ^ 2 + x ^ 2 - x - (r : Int) ^ 2 ∧
    -x ≤ x ^ 2 + y ^ 2 - (r : Int) ^ 2 ∧ x ^ 2 + y ^ 2 - (r : Int) ^ 2 ≤ x

/-- 41_raster.md R100 (the spec's own derivation): the table of iterations and of distinct pixels. -/
def Obligations.CircleTable : Prop :=
  circleSteps 0 = [(0, 0, 1)] ∧ circleSteps 1 = [(1, 0, 0), (1, 1, 3)] ∧
  circleSteps 2 = [(2, 0, -1), (2, 1, 2)] ∧ circleSteps 3 = [(3, 0, -2), (3, 1, 1), (2, 2, 2)] ∧
  circleSteps 4 = [(4, 0, -3), (4, 1, 0), (4, 2, 5), (3, 3, 6)] ∧
  circleSteps 5 = [(5, 0, -4), (5, 1, -1), (5, 2, 4), (4, 3, 3)] ∧
  (List.range 6).map (fun r => (circlePoints 10 10 r).dedup.length) = [1, 8, 12, 16, 24, 28]

/-- 70_reset_and_hazards.md R181 (the spec's own derivation; the bounds are the model's, log 13): LINE and CIRCLE end by
their own tests, so more room in the bound changes nothing. -/
def Obligations.LoopsEndByTheirOwnTests : Prop :=
  (∀ (x1 y1 x2 y2 : Int) (more : Nat),
    lineLoop x2 y2 (x2 - x1).natAbs (y2 - y1).natAbs (x2 - x1).sign (y2 - y1).sign
      ((x2 - x1).natAbs + (y2 - y1).natAbs + 1 + more) x1 y1 ((x2 - x1).natAbs - (y2 - y1).natAbs) =
      linePoints x1 y1 x2 y2) ∧
  (∀ r more : Nat, circleLoop (r + 1 + more) r 0 (1 - r) = circleSteps r)

/-! ## The text renderer -/

/-- 42_text.md R110: the packet, the checks in their order, and the two registers. -/
def Obligations.SetCursorWritesTheCursor : Prop :=
  (∀ x0 x1 y0 y1 : Byte, decode [0x30, x0, x1, y0, y1] = .ok (.setCursor (x1 ++ x0) (y1 ++ y0))) ∧
  ∀ (x y : Half) (s : State),
    (s.status ≠ .initialized → exec (.setCursor x y) s = .next (reported .notInitialized [] s)) ∧
    (s.status = .initialized → ¬ Inside s.cfg x.toInt y.toInt →
      exec (.setCursor x y) s = .next (reported .invalidArgument [] s)) ∧
    (s.status = .initialized → Inside s.cfg x.toInt y.toInt →
      exec (.setCursor x y) s = .next { reported .ok [] s with cursorX := x, cursorY := y })

/-- 42_text.md R111: both registers, low byte first; nothing else is written. -/
def Obligations.GetCursorReturnsTheCursor : Prop :=
  decode [0x31] = .ok .getCursor ∧
  ∀ s : State,
    (s.status ≠ .initialized → exec .getCursor s = .next (reported .notInitialized [0, 0, 0, 0] s)) ∧
    (s.status = .initialized →
      ∃ d0 d1 d2 d3 : Byte, exec .getCursor s = .next (reported .ok [d0, d1, d2, d3] s) ∧
        d0.toNat + 256 * d1.toNat = s.cursorX.toNat ∧ d2.toNat + 256 * d3.toNat = s.cursorY.toNat)

/-- 42_text.md R114, for all parameters within their bounds. -/
def Obligations.AdvanceMovesTheCursor : Prop :=
  ∀ (s : State) (scale : Byte), s.cfg.wf →
    Advances s (advance scale s) scale ∧
    advance scale s = { s with cursorX := (advance scale s).cursorX, cursorY := (advance scale s).cursorY }

/-- 42_text.md R115 (a) to (c) (the spec's own derivation). -/
def Obligations.AdvanceStaysInsideAndMovesOn : Prop :=
  ∀ (s : State) (scale : Byte), s.cfg.wf → s.cursorX.toNat < s.cfg.fbW → s.cursorY.toNat < s.cfg.fbH →
    ((advance scale s).cursorX.toNat < s.cfg.fbW ∧ (advance scale s).cursorY.toNat < s.cfg.fbH) ∧
    ((advance scale s).cursorX = 0 ∨ s.cursorX.toNat < (advance scale s).cursorX.toNat) ∧
    (((advance scale s).cursorX = 0 ∧ (advance scale s).cursorY = 0) ∨
      s.cursorY.toNat ≤ (advance scale s).cursorY.toNat) ∧
    (advance scale s).fb = s.fb

/-- 42_text.md R112, R113, R114: DRAW_GLYPH sets the glyph's 1 pixels at the cursor, leaves its 0 pixels alone, and
advances the cursor, clipped or not. -/
def Obligations.DrawGlyphPaintsTheGlyphAndAdvances : Prop :=
  ∀ (code scale : Byte) (s : State), s.cfg.wf → s.status = .initialized → 1 ≤ scale.toNat → HasGlyph s.cfg code →
    ∃ t, exec (.drawGlyph code scale) s = .next t ∧ Advances s t scale ∧
      Paints (GlyphPoint s code scale) true s { t with cursorX := s.cursorX, cursorY := s.cursorY }

/-- 42_text.md R113, R116: scale 0, a character without a glyph, a start outside the buffer: InvalidArgument and no
effect. -/
def Obligations.TextCommandsRejectBadArguments : Prop :=
  ∀ s : State, s.status = .initialized →
    (∀ code scale : Byte, scale = 0 ∨ ¬ HasGlyph s.cfg code →
      exec (.drawGlyph code scale) s = .next (reported .invalidArgument [] s)) ∧
    (∀ (scale : Byte) (x y : Half) (chars : List Byte), scale = 0 ∨ ¬ Inside s.cfg x.toInt y.toInt →
      exec (.drawString scale x y chars) s = .next (reported .invalidArgument [] s))

/-- 42_text.md R117 (the spec's own derivation): DRAW_STRING is SET_CURSOR followed by one DRAW_GLYPH a character, on FB,
on the cursor, and in whether InvalidArgument is reported; and DRAW_STRING writes nothing else. -/
def Obligations.DrawStringIsSetCursorThenGlyphs : Prop :=
  ∀ (scale : Byte) (x y : Half) (chars : List Byte) (s : State), s.status = .initialized → 1 ≤ scale.toNat →
    Inside s.cfg x.toInt y.toInt → (∀ c ∈ chars, HasGlyph s.cfg c) →
    ∃ t u, exec (.drawString scale x y chars) s = .next t ∧
      execAll (.setCursor x y :: chars.map (fun c => .drawGlyph c scale)) s = .next u ∧
      t.fb = u.fb ∧ t.cursorX = u.cursorX ∧ t.cursorY = u.cursorY ∧
      (t.lastError = .invalidArgument ↔
        ∃ r ∈ u.responses.drop s.responses.length, r.code = .invalidArgument) ∧
      (t.lastError = .ok ∨ t.lastError = .invalidArgument) ∧
      t = { reported t.lastError [] s with fb := t.fb, cursorX := t.cursorX, cursorY := t.cursorY }

/-- 42_text.md R116: a character outside the table is skipped without an advance, the rest of the string is rendered, and
the result is InvalidArgument. -/
def Obligations.DrawStringSkipsUnknownCharacters : Prop :=
  ∀ (scale c : Byte) (x y : Half) (pre post : List Byte) (s : State), s.status = .initialized → 1 ≤ scale.toNat →
    Inside s.cfg x.toInt y.toInt → ¬ HasGlyph s.cfg c →
    ∃ t u, exec (.drawString scale x y (pre ++ c :: post)) s = .next t ∧
      exec (.drawString scale x y (pre ++ post)) s = .next u ∧
      t = { u with
        lastError := .invalidArgument
        responses := s.responses ++ [{ code := .invalidArgument, data := [] }] }

/-! ## The whole machine -/

/-- 20_memory.md R47 (the spec's own derivation): no command but CLEAR changes a padding bit of the last page. -/
def Obligations.OnlyClearWritesPaddingBits : Prop :=
  ∀ (i : Instr) (s t : State), exec i s = .next t → i ≠ .clear →
    ∀ k b, (s.cfg.pages - 1) * s.cfg.fbW ≤ k → k < s.cfg.fbBytes → s.cfg.fbH - 8 * (s.cfg.pages - 1) ≤ b →
      (t.memRead k).getLsbD b = (s.memRead k).getLsbD b
end

