-- ==== Sys2Proof/Laws/State.lean ====
section
/-! SUPPORT. What each update of State does to each field: one lemma per field per update, so that no later proof unfolds
a record update. -/
namespace Sys2Proof.Machine

/-! ## State.memWrite -/

@[simp] theorem State.memWrite_cfg (s : State) (i : Nat) (v : Byte) : (s.memWrite i v).cfg = s.cfg := rfl
@[simp] theorem State.memWrite_status (s : State) (i : Nat) (v : Byte) : (s.memWrite i v).status = s.status := rfl
@[simp] theorem State.memWrite_lastError (s : State) (i : Nat) (v : Byte) :
    (s.memWrite i v).lastError = s.lastError := rfl
@[simp] theorem State.memWrite_cursorX (s : State) (i : Nat) (v : Byte) : (s.memWrite i v).cursorX = s.cursorX := rfl
@[simp] theorem State.memWrite_cursorY (s : State) (i : Nat) (v : Byte) : (s.memWrite i v).cursorY = s.cursorY := rfl
@[simp] theorem State.memWrite_bind (s : State) (i : Nat) (v : Byte) : (s.memWrite i v).bind = s.bind := rfl
@[simp] theorem State.memWrite_fb (s : State) (i : Nat) (v : Byte) : (s.memWrite i v).fb = s.fb.store i v := rfl
@[simp] theorem State.memWrite_tx (s : State) (i : Nat) (v : Byte) : (s.memWrite i v).tx = s.tx := rfl
@[simp] theorem State.memWrite_busy (s : State) (i : Nat) (v : Byte) : (s.memWrite i v).busy = s.busy := rfl
@[simp] theorem State.memWrite_inFlight (s : State) (i : Nat) (v : Byte) :
    (s.memWrite i v).inFlight = s.inFlight := rfl
@[simp] theorem State.memWrite_inbox (s : State) (i : Nat) (v : Byte) : (s.memWrite i v).inbox = s.inbox := rfl
@[simp] theorem State.memWrite_responses (s : State) (i : Nat) (v : Byte) :
    (s.memWrite i v).responses = s.responses := rfl
@[simp] theorem State.memWrite_answers (s : State) (i : Nat) (v : Byte) : (s.memWrite i v).answers = s.answers := rfl
@[simp] theorem State.memWrite_draws (s : State) (i : Nat) (v : Byte) : (s.memWrite i v).draws = s.draws := rfl
@[simp] theorem State.memWrite_resets (s : State) (i : Nat) (v : Byte) : (s.memWrite i v).resets = s.resets := rfl

/-! ## State.setCursor -/

@[simp] theorem State.setCursor_cfg (s : State) (x y : Nat) : (s.setCursor x y).cfg = s.cfg := rfl
@[simp] theorem State.setCursor_status (s : State) (x y : Nat) : (s.setCursor x y).status = s.status := rfl
@[simp] theorem State.setCursor_lastError (s : State) (x y : Nat) : (s.setCursor x y).lastError = s.lastError := rfl
@[simp] theorem State.setCursor_cursorX (s : State) (x y : Nat) : (s.setCursor x y).cursorX = BitVec.ofNat 16 x := rfl
@[simp] theorem State.setCursor_cursorY (s : State) (x y : Nat) : (s.setCursor x y).cursorY = BitVec.ofNat 16 y := rfl
@[simp] theorem State.setCursor_bind (s : State) (x y : Nat) : (s.setCursor x y).bind = s.bind := rfl
@[simp] theorem State.setCursor_fb (s : State) (x y : Nat) : (s.setCursor x y).fb = s.fb := rfl
@[simp] theorem State.setCursor_tx (s : State) (x y : Nat) : (s.setCursor x y).tx = s.tx := rfl
@[simp] theorem State.setCursor_busy (s : State) (x y : Nat) : (s.setCursor x y).busy = s.busy := rfl
@[simp] theorem State.setCursor_inFlight (s : State) (x y : Nat) : (s.setCursor x y).inFlight = s.inFlight := rfl
@[simp] theorem State.setCursor_inbox (s : State) (x y : Nat) : (s.setCursor x y).inbox = s.inbox := rfl
@[simp] theorem State.setCursor_responses (s : State) (x y : Nat) : (s.setCursor x y).responses = s.responses := rfl
@[simp] theorem State.setCursor_answers (s : State) (x y : Nat) : (s.setCursor x y).answers = s.answers := rfl
@[simp] theorem State.setCursor_draws (s : State) (x y : Nat) : (s.setCursor x y).draws = s.draws := rfl
@[simp] theorem State.setCursor_resets (s : State) (x y : Nat) : (s.setCursor x y).resets = s.resets := rfl

/-! ## setLastError -/

@[simp] theorem setLastError_cfg (c : ResultCode) (s : State) : (setLastError c s).cfg = s.cfg := rfl
@[simp] theorem setLastError_status (c : ResultCode) (s : State) : (setLastError c s).status = s.status := rfl
@[simp] theorem setLastError_lastError (c : ResultCode) (s : State) : (setLastError c s).lastError = c := rfl
@[simp] theorem setLastError_cursorX (c : ResultCode) (s : State) : (setLastError c s).cursorX = s.cursorX := rfl
@[simp] theorem setLastError_cursorY (c : ResultCode) (s : State) : (setLastError c s).cursorY = s.cursorY := rfl
@[simp] theorem setLastError_bind (c : ResultCode) (s : State) : (setLastError c s).bind = s.bind := rfl
@[simp] theorem setLastError_fb (c : ResultCode) (s : State) : (setLastError c s).fb = s.fb := rfl
@[simp] theorem setLastError_tx (c : ResultCode) (s : State) : (setLastError c s).tx = s.tx := rfl
@[simp] theorem setLastError_busy (c : ResultCode) (s : State) : (setLastError c s).busy = s.busy := rfl
@[simp] theorem setLastError_inFlight (c : ResultCode) (s : State) : (setLastError c s).inFlight = s.inFlight := rfl
@[simp] theorem setLastError_inbox (c : ResultCode) (s : State) : (setLastError c s).inbox = s.inbox := rfl
@[simp] theorem setLastError_responses (c : ResultCode) (s : State) :
    (setLastError c s).responses = s.responses := rfl
@[simp] theorem setLastError_answers (c : ResultCode) (s : State) : (setLastError c s).answers = s.answers := rfl
@[simp] theorem setLastError_draws (c : ResultCode) (s : State) : (setLastError c s).draws = s.draws := rfl
@[simp] theorem setLastError_resets (c : ResultCode) (s : State) : (setLastError c s).resets = s.resets := rfl

/-! ## deliver -/

@[simp] theorem deliver_cfg (c : ResultCode) (d : List Byte) (s : State) : (deliver c d s).cfg = s.cfg := rfl
@[simp] theorem deliver_status (c : ResultCode) (d : List Byte) (s : State) : (deliver c d s).status = s.status := rfl
@[simp] theorem deliver_lastError (c : ResultCode) (d : List Byte) (s : State) :
    (deliver c d s).lastError = s.lastError := rfl
@[simp] theorem deliver_cursorX (c : ResultCode) (d : List Byte) (s : State) :
    (deliver c d s).cursorX = s.cursorX := rfl
@[simp] theorem deliver_cursorY (c : ResultCode) (d : List Byte) (s : State) :
    (deliver c d s).cursorY = s.cursorY := rfl
@[simp] theorem deliver_bind (c : ResultCode) (d : List Byte) (s : State) : (deliver c d s).bind = s.bind := rfl
@[simp] theorem deliver_fb (c : ResultCode) (d : List Byte) (s : State) : (deliver c d s).fb = s.fb := rfl
@[simp] theorem deliver_tx (c : ResultCode) (d : List Byte) (s : State) : (deliver c d s).tx = s.tx := rfl
@[simp] theorem deliver_busy (c : ResultCode) (d : List Byte) (s : State) : (deliver c d s).busy = false := rfl
@[simp] theorem deliver_inFlight (c : ResultCode) (d : List Byte) (s : State) : (deliver c d s).inFlight = none := rfl
@[simp] theorem deliver_inbox (c : ResultCode) (d : List Byte) (s : State) : (deliver c d s).inbox = s.inbox := rfl
@[simp] theorem deliver_responses (c : ResultCode) (d : List Byte) (s : State) :
    (deliver c d s).responses = s.responses ++ [{ code := c, data := d }] := rfl
@[simp] theorem deliver_answers (c : ResultCode) (d : List Byte) (s : State) :
    (deliver c d s).answers = s.answers := rfl
@[simp] theorem deliver_draws (c : ResultCode) (d : List Byte) (s : State) : (deliver c d s).draws = s.draws := rfl
@[simp] theorem deliver_resets (c : ResultCode) (d : List Byte) (s : State) : (deliver c d s).resets = s.resets := rfl

/-! ## complete -/

@[simp] theorem complete_cfg (c : ResultCode) (d : List Byte) (s : State) : (complete c d s).cfg = s.cfg := rfl
@[simp] theorem complete_status (c : ResultCode) (d : List Byte) (s : State) :
    (complete c d s).status = s.status := rfl
@[simp] theorem complete_lastError (c : ResultCode) (d : List Byte) (s : State) :
    (complete c d s).lastError = c := rfl
@[simp] theorem complete_cursorX (c : ResultCode) (d : List Byte) (s : State) :
    (complete c d s).cursorX = s.cursorX := rfl
@[simp] theorem complete_cursorY (c : ResultCode) (d : List Byte) (s : State) :
    (complete c d s).cursorY = s.cursorY := rfl
@[simp] theorem complete_bind (c : ResultCode) (d : List Byte) (s : State) : (complete c d s).bind = s.bind := rfl
@[simp] theorem complete_fb (c : ResultCode) (d : List Byte) (s : State) : (complete c d s).fb = s.fb := rfl
@[simp] theorem complete_tx (c : ResultCode) (d : List Byte) (s : State) : (complete c d s).tx = s.tx := rfl
@[simp] theorem complete_busy (c : ResultCode) (d : List Byte) (s : State) : (complete c d s).busy = false := rfl
@[simp] theorem complete_inFlight (c : ResultCode) (d : List Byte) (s : State) :
    (complete c d s).inFlight = none := rfl
@[simp] theorem complete_inbox (c : ResultCode) (d : List Byte) (s : State) : (complete c d s).inbox = s.inbox := rfl
@[simp] theorem complete_responses (c : ResultCode) (d : List Byte) (s : State) :
    (complete c d s).responses = s.responses ++ [{ code := c, data := d }] := rfl
@[simp] theorem complete_answers (c : ResultCode) (d : List Byte) (s : State) :
    (complete c d s).answers = s.answers := rfl
@[simp] theorem complete_draws (c : ResultCode) (d : List Byte) (s : State) : (complete c d s).draws = s.draws := rfl
@[simp] theorem complete_resets (c : ResultCode) (d : List Byte) (s : State) :
    (complete c d s).resets = s.resets := rfl

/-! ## recordSend -/

@[simp] theorem recordSend_cfg (b : OutByte) (r : SendResult) (s : State) : (recordSend b r s).cfg = s.cfg := rfl
@[simp] theorem recordSend_status (b : OutByte) (r : SendResult) (s : State) :
    (recordSend b r s).status = s.status := rfl
@[simp] theorem recordSend_lastError (b : OutByte) (r : SendResult) (s : State) :
    (recordSend b r s).lastError = s.lastError := rfl
@[simp] theorem recordSend_cursorX (b : OutByte) (r : SendResult) (s : State) :
    (recordSend b r s).cursorX = s.cursorX := rfl
@[simp] theorem recordSend_cursorY (b : OutByte) (r : SendResult) (s : State) :
    (recordSend b r s).cursorY = s.cursorY := rfl
@[simp] theorem recordSend_bind (b : OutByte) (r : SendResult) (s : State) : (recordSend b r s).bind = s.bind := rfl
@[simp] theorem recordSend_fb (b : OutByte) (r : SendResult) (s : State) : (recordSend b r s).fb = s.fb := rfl
@[simp] theorem recordSend_tx (b : OutByte) (r : SendResult) (s : State) :
    (recordSend b r s).tx = s.tx ++ [{ value := b.value, isData := b.isData, result := r }] := rfl
@[simp] theorem recordSend_busy (b : OutByte) (r : SendResult) (s : State) : (recordSend b r s).busy = s.busy := rfl
@[simp] theorem recordSend_inFlight (b : OutByte) (r : SendResult) (s : State) :
    (recordSend b r s).inFlight = s.inFlight := rfl
@[simp] theorem recordSend_inbox (b : OutByte) (r : SendResult) (s : State) :
    (recordSend b r s).inbox = s.inbox := rfl
@[simp] theorem recordSend_responses (b : OutByte) (r : SendResult) (s : State) :
    (recordSend b r s).responses = s.responses := rfl
@[simp] theorem recordSend_answers (b : OutByte) (r : SendResult) (s : State) :
    (recordSend b r s).answers = s.answers := rfl
@[simp] theorem recordSend_draws (b : OutByte) (r : SendResult) (s : State) :
    (recordSend b r s).draws = s.draws := rfl
@[simp] theorem recordSend_resets (b : OutByte) (r : SendResult) (s : State) :
    (recordSend b r s).resets = s.resets := rfl

/-! ## holdBusy -/

@[simp] theorem holdBusy_cfg (w : InFlight) (s : State) : (holdBusy w s).cfg = s.cfg := rfl
@[simp] theorem holdBusy_status (w : InFlight) (s : State) : (holdBusy w s).status = s.status := rfl
@[simp] theorem holdBusy_lastError (w : InFlight) (s : State) : (holdBusy w s).lastError = s.lastError := rfl
@[simp] theorem holdBusy_cursorX (w : InFlight) (s : State) : (holdBusy w s).cursorX = s.cursorX := rfl
@[simp] theorem holdBusy_cursorY (w : InFlight) (s : State) : (holdBusy w s).cursorY = s.cursorY := rfl
@[simp] theorem holdBusy_bind (w : InFlight) (s : State) : (holdBusy w s).bind = s.bind := rfl
@[simp] theorem holdBusy_fb (w : InFlight) (s : State) : (holdBusy w s).fb = s.fb := rfl
@[simp] theorem holdBusy_tx (w : InFlight) (s : State) : (holdBusy w s).tx = s.tx := rfl
@[simp] theorem holdBusy_busy (w : InFlight) (s : State) : (holdBusy w s).busy = true := rfl
@[simp] theorem holdBusy_inFlight (w : InFlight) (s : State) : (holdBusy w s).inFlight = some w := rfl
@[simp] theorem holdBusy_inbox (w : InFlight) (s : State) : (holdBusy w s).inbox = s.inbox := rfl
@[simp] theorem holdBusy_responses (w : InFlight) (s : State) : (holdBusy w s).responses = s.responses := rfl
@[simp] theorem holdBusy_answers (w : InFlight) (s : State) : (holdBusy w s).answers = s.answers := rfl
@[simp] theorem holdBusy_draws (w : InFlight) (s : State) : (holdBusy w s).draws = s.draws := rfl
@[simp] theorem holdBusy_resets (w : InFlight) (s : State) : (holdBusy w s).resets = s.resets := rfl

/-! ## bindLines -/

@[simp] theorem bindLines_cfg (cs clk din dc rst : Byte) (s : State) :
    (bindLines cs clk din dc rst s).cfg = s.cfg := rfl
@[simp] theorem bindLines_status (cs clk din dc rst : Byte) (s : State) :
    (bindLines cs clk din dc rst s).status = .portsBound := rfl
@[simp] theorem bindLines_lastError (cs clk din dc rst : Byte) (s : State) :
    (bindLines cs clk din dc rst s).lastError = s.lastError := rfl
@[simp] theorem bindLines_cursorX (cs clk din dc rst : Byte) (s : State) :
    (bindLines cs clk din dc rst s).cursorX = s.cursorX := rfl
@[simp] theorem bindLines_cursorY (cs clk din dc rst : Byte) (s : State) :
    (bindLines cs clk din dc rst s).cursorY = s.cursorY := rfl
@[simp] theorem bindLines_bind (cs clk din dc rst : Byte) (s : State) :
    (bindLines cs clk din dc rst s).bind = { cs := cs, clk := clk, din := din, dc := dc, rst := rst, bound := true } := rfl
@[simp] theorem bindLines_fb (cs clk din dc rst : Byte) (s : State) : (bindLines cs clk din dc rst s).fb = s.fb := rfl
@[simp] theorem bindLines_tx (cs clk din dc rst : Byte) (s : State) : (bindLines cs clk din dc rst s).tx = s.tx := rfl
@[simp] theorem bindLines_busy (cs clk din dc rst : Byte) (s : State) :
    (bindLines cs clk din dc rst s).busy = s.busy := rfl
@[simp] theorem bindLines_inFlight (cs clk din dc rst : Byte) (s : State) :
    (bindLines cs clk din dc rst s).inFlight = s.inFlight := rfl
@[simp] theorem bindLines_inbox (cs clk din dc rst : Byte) (s : State) :
    (bindLines cs clk din dc rst s).inbox = s.inbox := rfl
@[simp] theorem bindLines_responses (cs clk din dc rst : Byte) (s : State) :
    (bindLines cs clk din dc rst s).responses = s.responses := rfl
@[simp] theorem bindLines_answers (cs clk din dc rst : Byte) (s : State) :
    (bindLines cs clk din dc rst s).answers = s.answers := rfl
@[simp] theorem bindLines_draws (cs clk din dc rst : Byte) (s : State) :
    (bindLines cs clk din dc rst s).draws = s.draws := rfl
@[simp] theorem bindLines_resets (cs clk din dc rst : Byte) (s : State) :
    (bindLines cs clk din dc rst s).resets = s.resets := rfl

/-! ## acceptPacket -/

@[simp] theorem acceptPacket_cfg (s : State) : (acceptPacket s).cfg = s.cfg := rfl
@[simp] theorem acceptPacket_status (s : State) : (acceptPacket s).status = s.status := rfl
@[simp] theorem acceptPacket_lastError (s : State) : (acceptPacket s).lastError = s.lastError := rfl
@[simp] theorem acceptPacket_cursorX (s : State) : (acceptPacket s).cursorX = s.cursorX := rfl
@[simp] theorem acceptPacket_cursorY (s : State) : (acceptPacket s).cursorY = s.cursorY := rfl
@[simp] theorem acceptPacket_bind (s : State) : (acceptPacket s).bind = s.bind := rfl
@[simp] theorem acceptPacket_fb (s : State) : (acceptPacket s).fb = s.fb := rfl
@[simp] theorem acceptPacket_tx (s : State) : (acceptPacket s).tx = s.tx := rfl
@[simp] theorem acceptPacket_busy (s : State) : (acceptPacket s).busy = true := rfl
@[simp] theorem acceptPacket_inFlight (s : State) : (acceptPacket s).inFlight = s.inFlight := rfl
@[simp] theorem acceptPacket_inbox (s : State) : (acceptPacket s).inbox = s.inbox.tail := rfl
@[simp] theorem acceptPacket_responses (s : State) : (acceptPacket s).responses = s.responses := rfl
@[simp] theorem acceptPacket_answers (s : State) : (acceptPacket s).answers = s.answers := rfl
@[simp] theorem acceptPacket_draws (s : State) : (acceptPacket s).draws = s.draws := rfl
@[simp] theorem acceptPacket_resets (s : State) : (acceptPacket s).resets = s.resets := rfl

/-! ## applyReset -/

@[simp] theorem applyReset_cfg (s : State) : (applyReset s).cfg = s.cfg := rfl
@[simp] theorem applyReset_status (s : State) : (applyReset s).status = .uninitialized := rfl
@[simp] theorem applyReset_lastError (s : State) : (applyReset s).lastError = .ok := rfl
@[simp] theorem applyReset_cursorX (s : State) : (applyReset s).cursorX = 0 := rfl
@[simp] theorem applyReset_cursorY (s : State) : (applyReset s).cursorY = 0 := rfl
@[simp] theorem applyReset_bind (s : State) :
    (applyReset s).bind = { cs := 0x00, clk := 0x00, din := 0x00, dc := 0x00, rst := 0x00, bound := false } := rfl
@[simp] theorem applyReset_fb (s : State) : (applyReset s).fb = [] := rfl
@[simp] theorem applyReset_tx (s : State) : (applyReset s).tx = [] := rfl
@[simp] theorem applyReset_busy (s : State) : (applyReset s).busy = false := rfl
@[simp] theorem applyReset_inFlight (s : State) : (applyReset s).inFlight = none := rfl
@[simp] theorem applyReset_inbox (s : State) : (applyReset s).inbox = s.inbox.tail := rfl
@[simp] theorem applyReset_responses (s : State) : (applyReset s).responses = [] := rfl
@[simp] theorem applyReset_answers (s : State) : (applyReset s).answers = s.answers := rfl
@[simp] theorem applyReset_draws (s : State) : (applyReset s).draws = s.draws := rfl
@[simp] theorem applyReset_resets (s : State) : (applyReset s).resets = s.resets + 1 := rfl

end Sys2Proof.Machine
end

