-- ==== Sys2Proof/Laws/Memory.lean ====
section
/-! SUPPORT. FB as a list of cells: reading after writing, the canonical form, and where the listed addresses lie. -/
namespace Sys2Proof.Machine

namespace Memory

theorem byteAt_store_same (m : Memory) (a : Nat) (v : Byte) : Memory.byteAt (Memory.store m a v) a = some v := by
  induction m with
  | nil => simp [store, byteAt]
  | cons c m ih =>
    obtain ⟨b, w⟩ := c
    simp only [store]
    split
    · simp [byteAt]
    · split
      · simp [byteAt]
      · simp [byteAt, *]

theorem byteAt_store_ne (m : Memory) {a a' : Nat} (v : Byte) (h : a' ≠ a) :
    Memory.byteAt (Memory.store m a v) a' = Memory.byteAt m a' := by
  induction m with
  | nil => simp [store, byteAt, h]
  | cons c m ih =>
    obtain ⟨b, w⟩ := c
    simp only [store]
    split
    · simp [byteAt, h]
    · split
      · subst_vars; simp [byteAt, h]
      · simp [byteAt, ih]

theorem mem_store {m : Memory} {a : Nat} {v : Byte} {c : Host.Cell} (h : c ∈ Memory.store m a v) :
    c = (a, v) ∨ c ∈ m := by
  induction m with
  | nil => simp [store] at h; exact Or.inl h
  | cons d m ih =>
    obtain ⟨b, w⟩ := d
    simp only [store] at h
    split at h
    · simpa using h
    · split at h
      · rcases List.mem_cons.1 h with h | h <;> simp [h]
      · rcases List.mem_cons.1 h with h | h
        · simp [h]
        · rcases ih h with h | h <;> simp [h]

/-- A write keeps the canonical form. -/
theorem store_wf {m : Memory} (h : Memory.wf m) (a : Nat) (v : Byte) : Memory.wf (Memory.store m a v) := by
  induction m with
  | nil => simp [store, Memory.wf]
  | cons d m ih =>
    obtain ⟨b, w⟩ := d
    have hd := List.pairwise_cons.1 h
    simp only [store]
    split
    · rename_i hab
      refine List.pairwise_cons.2 ⟨fun c hc => ?_, h⟩
      rcases List.mem_cons.1 hc with rfl | hc
      · exact hab
      · exact lt_trans hab (hd.1 c hc)
    · split
      · rename_i _ hab
        subst hab
        exact List.pairwise_cons.2 ⟨fun c hc => hd.1 c hc, hd.2⟩
      · refine List.pairwise_cons.2 ⟨fun c hc => ?_, ih hd.2⟩
        rcases mem_store hc with rfl | hc
        · show b < a
          omega
        · exact hd.1 c hc

/-- Addresses stay below a bound that the written address meets. -/
theorem store_inside {m : Memory} {n a : Nat} {v : Byte} (h : ∀ c ∈ m, c.1 < n) (ha : a < n) :
    ∀ c ∈ Memory.store m a v, c.1 < n := by
  intro c hc
  rcases mem_store hc with rfl | hc
  · exact ha
  · exact h c hc

/-- In the canonical form, an address below every listed one is unlisted. -/
theorem byteAt_eq_none {m : Memory} {a : Nat} (h : ∀ c ∈ m, a < c.1) : Memory.byteAt m a = none := by
  induction m with
  | nil => rfl
  | cons d m ih =>
    obtain ⟨b, w⟩ := d
    have hb : a < b := h (b, w) (by simp)
    have hne : a ≠ b := by omega
    simpa [byteAt, hne] using ih fun c hc => h c (by simp [hc])

/-- Two canonical memories with the same bytes are the same list. -/
theorem wf_ext {m m' : Memory} (h : Memory.wf m) (h' : Memory.wf m')
    (heq : ∀ a, Memory.byteAt m a = Memory.byteAt m' a) : m = m' := by
  induction m generalizing m' with
  | nil =>
    cases m' with
    | nil => rfl
    | cons d m' => simpa [byteAt] using heq d.1
  | cons d m ih =>
    obtain ⟨b, w⟩ := d
    have hd := List.pairwise_cons.1 h
    cases m' with
    | nil => simpa [byteAt] using heq b
    | cons e m' =>
      obtain ⟨b', w'⟩ := e
      have he := List.pairwise_cons.1 h'
      have hb : b = b' := by
        rcases lt_trichotomy b b' with hlt | heq' | hlt
        · have hnone : Memory.byteAt ((b', w') :: m') b = none := byteAt_eq_none (by
            intro c hc
            rcases List.mem_cons.1 hc with rfl | hc
            · exact hlt
            · exact lt_trans hlt (he.1 c hc))
          have h1 := heq b
          rw [hnone] at h1
          simp [byteAt] at h1
        · exact heq'
        · have hnone : Memory.byteAt ((b, w) :: m) b' = none := byteAt_eq_none (by
            intro c hc
            rcases List.mem_cons.1 hc with rfl | hc
            · exact hlt
            · exact lt_trans hlt (hd.1 c hc))
          have h1 := heq b'
          rw [hnone] at h1
          simp [byteAt] at h1
      subst hb
      have hw : w = w' := by simpa [byteAt] using heq b
      subst hw
      have hm : m = m' := ih hd.2 he.2 (by
        intro a
        by_cases hab : a = b
        · subst hab
          rw [byteAt_eq_none hd.1, byteAt_eq_none he.1]
        · simpa [byteAt, hab] using heq a)
      rw [hm]

end Memory

/-! ## The bytes of a state -/

@[simp] theorem memRead_memWrite_same (s : State) (i : Nat) (v : Byte) : (s.memWrite i v).memRead i = v := by
  simp [State.memRead, Memory.byteAt_store_same]

theorem memRead_memWrite_ne (s : State) {i j : Nat} (v : Byte) (h : j ≠ i) :
    (s.memWrite i v).memRead j = s.memRead j := by
  simp [State.memRead, Memory.byteAt_store_ne _ _ h]

/-- A read depends on the listed bytes and on which reset the machine is in, on nothing else. -/
theorem memRead_congr {s t : State} (hfb : s.fb = t.fb) (hr : s.resets = t.resets) (i : Nat) :
    s.memRead i = t.memRead i := by
  simp [State.memRead, hfb, hr]

/-- Everything `zeroBytes` does: it changes FB alone. -/
theorem zeroBytes_eq (s : State) (n : Nat) : s.zeroBytes n = { s with fb := (s.zeroBytes n).fb } := by
  unfold State.zeroBytes
  induction n with
  | zero => rfl
  | succ n ih =>
    rw [List.range_succ, List.foldl_append, List.foldl_cons, List.foldl_nil]
    rw [ih]
    rfl

theorem zeroBytes_succ (s : State) (n : Nat) : s.zeroBytes (n + 1) = (s.zeroBytes n).memWrite n 0x00 := by
  simp [State.zeroBytes, List.range_succ]

/-- The bytes after zeroing: 0x00 below the bound, as before above it. -/
theorem memRead_zeroBytes (s : State) (n i : Nat) :
    (s.zeroBytes n).memRead i = if i < n then 0x00 else s.memRead i := by
  induction n with
  | zero => simp [State.zeroBytes]
  | succ n ih =>
    rw [zeroBytes_succ]
    by_cases h : i = n
    · subst h; simp
    · rw [memRead_memWrite_ne _ _ h, ih]
      by_cases hi : i < n
      · simp [hi, show i < n + 1 by omega]
      · simp [hi, show ¬ i < n + 1 by omega]

theorem zeroBytes_wf {s : State} (h : s.fb.wf) (n : Nat) : (s.zeroBytes n).fb.wf := by
  induction n with
  | zero => simpa [State.zeroBytes] using h
  | succ n ih => rw [zeroBytes_succ]; exact Memory.store_wf ih _ _

theorem zeroBytes_inside {s : State} {b : Nat} (h : ∀ c ∈ s.fb, c.1 < b) (n : Nat) (hn : n ≤ b) :
    ∀ c ∈ (s.zeroBytes n).fb, c.1 < b := by
  induction n with
  | zero => simpa [State.zeroBytes] using h
  | succ n ih => rw [zeroBytes_succ]; exact Memory.store_inside (ih (by omega)) (by omega)

end Sys2Proof.Machine
end

