-- ==== Sys2Proof/Laws/Pixel.lean ====
section
/-! SUPPORT. The pixel engine: what one PLOT and a list of plots can do, bit by bit, and that distinct pixels are distinct
bits inside FB. -/
namespace Sys2Proof.Machine

/-! ## Points, bytes and bits -/

theorem inRange_iff (c : Config) (p : Point) :
    inRange c p = true ↔ 0 ≤ p.1 ∧ p.1 < (c.fbW : Int) ∧ 0 ≤ p.2 ∧ p.2 < (c.fbH : Int) := by
  simp [inRange]

theorem pixelBit_lt (p : Point) : pixelBit p < 8 := Nat.mod_lt _ (by decide)

/-- An in-range pixel lies inside FB (20_memory.md R49). -/
theorem pixelIndex_lt {c : Config} {p : Point} (h : inRange c p = true) : pixelIndex c p < c.fbBytes := by
  obtain ⟨h0, h1, h2, h3⟩ := (inRange_iff c p).1 h
  have hx : p.1.toNat < c.fbW := by omega
  have hy : p.2.toNat / 8 + 1 ≤ c.pages := by unfold Config.pages; omega
  calc pixelIndex c p < (p.2.toNat / 8) * c.fbW + c.fbW := by unfold pixelIndex; omega
    _ = (p.2.toNat / 8 + 1) * c.fbW := by ring
    _ ≤ c.pages * c.fbW := Nat.mul_le_mul_right _ hy

/-- Distinct in-range pixels are distinct bits. -/
theorem pixel_injective {c : Config} {p q : Point} (hp : inRange c p = true) (hq : inRange c q = true)
    (hi : pixelIndex c p = pixelIndex c q) (hb : pixelBit p = pixelBit q) : p = q := by
  obtain ⟨hp0, hp1, hp2, hp3⟩ := (inRange_iff c p).1 hp
  obtain ⟨hq0, hq1, hq2, hq3⟩ := (inRange_iff c q).1 hq
  have hxp : p.1.toNat < c.fbW := by omega
  have hxq : q.1.toNat < c.fbW := by omega
  have hx : p.1.toNat = q.1.toNat := by
    have := congrArg (· % c.fbW) hi
    simpa [pixelIndex, Nat.mul_add_mod', Nat.mod_eq_of_lt hxp, Nat.mod_eq_of_lt hxq] using this
  have hpage : p.2.toNat / 8 = q.2.toNat / 8 := by
    unfold pixelIndex at hi
    rw [hx] at hi
    exact Nat.eq_of_mul_eq_mul_right (by omega) (Nat.add_right_cancel hi)
  unfold pixelBit at hb
  have hy : p.2.toNat = q.2.toNat := by omega
  exact Prod.ext (by omega) (by omega)

/-- The bits of a byte after one bit is set or cleared (40_pixel.md R82). -/
theorem getLsbD_plotByte (on : Bool) (b : Nat) (v : Byte) (k : Nat) (hb : b < 8) :
    (plotByte on b v).getLsbD k = if k = b then on else v.getLsbD k := by
  by_cases hk : k < 8
  · have h255 : (0xFF#8).getLsbD k = true := by interval_cases k <;> rfl
    have hone : ((1#8) <<< b).getLsbD k = decide (k = b) := by
      rw [BitVec.getLsbD_shiftLeft]
      by_cases h : k = b
      · subst h; simp [hk]
      · by_cases hlt : k < b
        · simp [hk, hlt, h]
        · have hne : k - b ≠ 0 := by omega
          simp [hk, hlt, h, hne]
    cases on
    · show (v &&& (0xFF#8 ^^^ (1#8 <<< b))).getLsbD k = _
      rw [BitVec.getLsbD_and, BitVec.getLsbD_xor, h255, hone]
      by_cases h : k = b <;> simp [h]
    · show (v ||| (1#8 <<< b)).getLsbD k = _
      rw [BitVec.getLsbD_or, hone]
      by_cases h : k = b <;> simp [h]
  · have hne : k ≠ b := by omega
    rw [if_neg hne, BitVec.getLsbD_of_ge _ _ (by omega), BitVec.getLsbD_of_ge _ _ (by omega)]

/-! ## One plot -/

theorem plot_of_inRange {on : Bool} {r : Run} {p : Point} (h : inRange r.state.cfg p = true) :
    plot on r p =
      { r with
        state := r.state.memWrite (pixelIndex r.state.cfg p)
          (plotByte on (pixelBit p) (r.state.memRead (pixelIndex r.state.cfg p))) } := by
  simp [plot, h]

theorem plot_of_not_inRange {on : Bool} {r : Run} {p : Point} (h : inRange r.state.cfg p = false) :
    plot on r p = { r with latched := true } := by
  simp [plot, h, latchInvalidArgument]

/-- A plot changes FB alone. -/
theorem plot_state (on : Bool) (r : Run) (p : Point) :
    (plot on r p).state = { r.state with fb := (plot on r p).state.fb } := by
  cases h : inRange r.state.cfg p
  · rw [plot_of_not_inRange h]
  · rw [plot_of_inRange h]; rfl

theorem plot_latched (on : Bool) (r : Run) (p : Point) :
    (plot on r p).latched = (r.latched || !inRange r.state.cfg p) := by
  cases h : inRange r.state.cfg p
  · rw [plot_of_not_inRange h]; simp
  · rw [plot_of_inRange h]; simp

/-- Bit `b` of byte `i` after a plot: the plotted pixel's bit is `on`, every other bit is as before. -/
theorem getLsbD_memRead_plot (on : Bool) (r : Run) (p : Point) (i b : Nat) :
    ((plot on r p).state.memRead i).getLsbD b =
      if inRange r.state.cfg p = true ∧ pixelIndex r.state.cfg p = i ∧ pixelBit p = b then on
      else (r.state.memRead i).getLsbD b := by
  cases h : inRange r.state.cfg p
  · rw [plot_of_not_inRange h]; simp
  · rw [plot_of_inRange h]
    by_cases hi : pixelIndex r.state.cfg p = i
    · subst hi
      rw [memRead_memWrite_same, getLsbD_plotByte _ _ _ _ (pixelBit_lt p)]
      by_cases hb : b = pixelBit p
      · simp [hb]
      · simp [hb, Ne.symm hb]
    · rw [memRead_memWrite_ne _ _ (Ne.symm hi)]
      simp [hi]

theorem plot_wf {on : Bool} {r : Run} {p : Point} (h : r.state.fb.wf) : (plot on r p).state.fb.wf := by
  cases hp : inRange r.state.cfg p
  · rwa [plot_of_not_inRange hp]
  · rw [plot_of_inRange hp]; exact Memory.store_wf h _ _

theorem plot_inside {on : Bool} {r : Run} {p : Point} (h : ∀ c ∈ r.state.fb, c.1 < r.state.cfg.fbBytes) :
    ∀ c ∈ (plot on r p).state.fb, c.1 < r.state.cfg.fbBytes := by
  cases hp : inRange r.state.cfg p
  · rwa [plot_of_not_inRange hp]
  · rw [plot_of_inRange hp]; exact Memory.store_inside h (pixelIndex_lt hp)

/-- Which bytes are listed after a plot. -/
theorem plot_listed (on : Bool) (r : Run) (p : Point) (a : Nat) :
    ((plot on r p).state.fb.byteAt a).isSome =
      ((r.state.fb.byteAt a).isSome || (inRange r.state.cfg p && decide (pixelIndex r.state.cfg p = a))) := by
  cases hp : inRange r.state.cfg p
  · rw [plot_of_not_inRange hp]; simp
  · rw [plot_of_inRange hp]
    by_cases ha : pixelIndex r.state.cfg p = a
    · subst ha; simp [Memory.byteAt_store_same]
    · simp [Memory.byteAt_store_ne _ _ (Ne.symm ha), ha]

/-! ## A list of plots -/

@[simp] theorem plotAll_nil (on : Bool) (r : Run) : plotAll on r [] = r := rfl

@[simp] theorem plotAll_cons (on : Bool) (r : Run) (p : Point) (ps : List Point) :
    plotAll on r (p :: ps) = plotAll on (plot on r p) ps := rfl

theorem plotAll_append (on : Bool) (r : Run) (ps qs : List Point) :
    plotAll on r (ps ++ qs) = plotAll on (plotAll on r ps) qs := by
  simp [plotAll, List.foldl_append]

theorem plot_cfg (on : Bool) (r : Run) (p : Point) : (plot on r p).state.cfg = r.state.cfg := by
  rw [plot_state]

/-- Plots change FB alone. -/
theorem plotAll_state (on : Bool) (r : Run) (ps : List Point) :
    (plotAll on r ps).state = { r.state with fb := (plotAll on r ps).state.fb } := by
  induction ps generalizing r with
  | nil => rfl
  | cons p ps ih => rw [plotAll_cons, ih, plot_state]

theorem plotAll_cfg (on : Bool) (r : Run) (ps : List Point) : (plotAll on r ps).state.cfg = r.state.cfg := by
  rw [plotAll_state]

/-- InvalidArgument is latched exactly when a plot was rejected (60_exceptions.md R154). -/
theorem plotAll_latched (on : Bool) (r : Run) (ps : List Point) :
    (plotAll on r ps).latched = (r.latched || ps.any (fun p => !inRange r.state.cfg p)) := by
  induction ps generalizing r with
  | nil => simp
  | cons p ps ih => rw [plotAll_cons, ih, plot_latched, plot_cfg]; simp [Bool.or_assoc]

/-- Bit `b` of byte `i` after a list of plots. -/
theorem getLsbD_memRead_plotAll (on : Bool) (r : Run) (ps : List Point) (i b : Nat) :
    ((plotAll on r ps).state.memRead i).getLsbD b =
      if ∃ p ∈ ps, inRange r.state.cfg p = true ∧ pixelIndex r.state.cfg p = i ∧ pixelBit p = b then on
      else (r.state.memRead i).getLsbD b := by
  induction ps generalizing r with
  | nil => simp
  | cons p ps ih =>
    rw [plotAll_cons, ih, plot_cfg, getLsbD_memRead_plot]
    by_cases hps : ∃ q ∈ ps, inRange r.state.cfg q = true ∧ pixelIndex r.state.cfg q = i ∧ pixelBit q = b
    · have : ∃ q ∈ p :: ps, inRange r.state.cfg q = true ∧ pixelIndex r.state.cfg q = i ∧ pixelBit q = b := by
        obtain ⟨q, hq, h⟩ := hps
        exact ⟨q, by simp [hq], h⟩
      rw [if_pos hps, if_pos this]
    · rw [if_neg hps]
      by_cases hp : inRange r.state.cfg p = true ∧ pixelIndex r.state.cfg p = i ∧ pixelBit p = b
      · rw [if_pos hp, if_pos ⟨p, by simp, hp⟩]
      · rw [if_neg hp, if_neg]
        rintro ⟨q, hq, h⟩
        rcases List.mem_cons.1 hq with rfl | hq
        · exact hp h
        · exact hps ⟨q, hq, h⟩

/-- A pixel after a list of plots: `on` where it was plotted, else as before. -/
theorem pixel_plotAll (on : Bool) (r : Run) (ps : List Point) {q : Point} (hq : inRange r.state.cfg q = true) :
    (plotAll on r ps).state.pixel q = if q ∈ ps then on else r.state.pixel q := by
  unfold State.pixel
  rw [plotAll_cfg, getLsbD_memRead_plotAll]
  refine if_congr ⟨?_, fun h => ⟨q, h, hq, rfl, rfl⟩⟩ rfl rfl
  rintro ⟨p, hp, hr, hi, hb⟩
  rwa [← pixel_injective hr hq hi hb]

/-- A byte that holds no plotted in-range pixel is unchanged. -/
theorem memRead_plotAll_of_not_mem (on : Bool) (r : Run) (ps : List Point) {i : Nat}
    (h : ∀ p ∈ ps, inRange r.state.cfg p = true → pixelIndex r.state.cfg p ≠ i) :
    (plotAll on r ps).state.memRead i = r.state.memRead i := by
  apply BitVec.eq_of_getLsbD_eq
  intro b _
  rw [getLsbD_memRead_plotAll, if_neg]
  rintro ⟨p, hp, hr, hi, _⟩
  exact h p hp hr hi

theorem plotAll_wf {on : Bool} {r : Run} (h : r.state.fb.wf) (ps : List Point) :
    (plotAll on r ps).state.fb.wf := by
  induction ps generalizing r with
  | nil => exact h
  | cons p ps ih => exact ih (plot_wf h)

theorem plotAll_inside {on : Bool} {r : Run} (h : ∀ c ∈ r.state.fb, c.1 < r.state.cfg.fbBytes)
    (ps : List Point) : ∀ c ∈ (plotAll on r ps).state.fb, c.1 < r.state.cfg.fbBytes := by
  induction ps generalizing r with
  | nil => exact h
  | cons p ps ih =>
    have := ih (r := plot on r p) (by rw [plot_cfg]; exact plot_inside h)
    rwa [plot_cfg] at this

/-- Which bytes are listed after a list of plots. -/
theorem plotAll_listed (on : Bool) (r : Run) (ps : List Point) (a : Nat) :
    ((plotAll on r ps).state.fb.byteAt a).isSome =
      ((r.state.fb.byteAt a).isSome ||
        ps.any (fun p => inRange r.state.cfg p && decide (pixelIndex r.state.cfg p = a))) := by
  induction ps generalizing r with
  | nil => simp
  | cons p ps ih => rw [plotAll_cons, ih, plot_listed, plot_cfg]; simp [Bool.or_assoc]

end Sys2Proof.Machine
end

