-- ==== Sys2Proof/Laws/Text.lean ====
section
/-! SUPPORT. The text renderer's operations: the cursor advance, a rendered glyph, a run of characters. -/
namespace Sys2Proof.Machine

theorem setCursor_eq (s : State) (x y : Nat) :
    s.setCursor x y = { s with cursorX := BitVec.ofNat 16 x, cursorY := BitVec.ofNat 16 y } := rfl

/-- ADVANCE moves the cursor and changes nothing else. -/
theorem advance_state (scale : Byte) (s : State) :
    advance scale s = { s with cursorX := (advance scale s).cursorX, cursorY := (advance scale s).cursorY } := by
  unfold advance; simp only; split
  · split <;> rfl
  · rfl

@[simp] theorem advance_cfg (scale : Byte) (s : State) : (advance scale s).cfg = s.cfg := by rw [advance_state]
@[simp] theorem advance_fb (scale : Byte) (s : State) : (advance scale s).fb = s.fb := by rw [advance_state]
@[simp] theorem advance_resets (scale : Byte) (s : State) : (advance scale s).resets = s.resets := by
  rw [advance_state]

/-- Where ADVANCE puts the cursor depends on the parameters and the cursor alone. -/
theorem advance_congr {s t : State} (scale : Byte) (hc : s.cfg = t.cfg) (hx : s.cursorX = t.cursorX)
    (hy : s.cursorY = t.cursorY) :
    (advance scale s).cursorX = (advance scale t).cursorX ∧ (advance scale s).cursorY = (advance scale t).cursorY := by
  unfold advance
  rw [hc, hx, hy]
  simp only
  split
  · split <;> exact ⟨rfl, rfl⟩
  · exact ⟨rfl, rfl⟩

/-- The points of a blit depend on the parameters and the cursor alone. -/
theorem blitPoints_congr {s t : State} (code scale : Byte) (hc : s.cfg = t.cfg) (hx : s.cursorX = t.cursorX)
    (hy : s.cursorY = t.cursorY) : blitPoints s code scale = blitPoints t code scale := by
  unfold blitPoints; rw [hc, hx, hy]

/-- The points of a blit: the 1 bits of the glyph, each as a scale × scale block at the cursor (42_text.md R112). -/
theorem mem_blitPoints {s : State} {code scale : Byte} {p : Point} :
    p ∈ blitPoints s code scale ↔
      ∃ column row, column < s.cfg.glyphCols * u8 scale ∧ row < s.cfg.glyphRows * u8 scale ∧
        glyphPixel s.cfg code (column / u8 scale) (row / u8 scale) = true ∧
        p = ((u16 s.cursorX : Int) + column, (u16 s.cursorY : Int) + row) := by
  unfold blitPoints
  simp only [List.mem_flatMap, List.mem_range, List.mem_filterMap]
  constructor
  · rintro ⟨column, hc, row, hr, h⟩
    split at h
    · exact ⟨column, row, hc, hr, by assumption, by simpa using h.symm⟩
    · simp at h
  · rintro ⟨column, row, hc, hr, hg, rfl⟩
    exact ⟨column, hc, row, hr, by simp [hg]⟩

/-- A rendered glyph changes FB and the cursor alone. -/
theorem renderGlyph_state (scale : Byte) (r : Run) (code : Byte) :
    (renderGlyph scale r code).state =
      { r.state with
        fb := (renderGlyph scale r code).state.fb
        cursorX := (renderGlyph scale r code).state.cursorX
        cursorY := (renderGlyph scale r code).state.cursorY } := by
  unfold renderGlyph
  simp only
  rw [advance_state, plotAll_state]

theorem renderChar_state (scale : Byte) (r : Run) (code : Byte) :
    (renderChar scale r code).state =
      { r.state with
        fb := (renderChar scale r code).state.fb
        cursorX := (renderChar scale r code).state.cursorX
        cursorY := (renderChar scale r code).state.cursorY } := by
  unfold renderChar
  split
  · exact renderGlyph_state scale r code
  · rfl

/-- A string of characters changes FB and the cursor alone. -/
theorem renderChars_state (scale : Byte) (r : Run) (chars : List Byte) :
    (chars.foldl (renderChar scale) r).state =
      { r.state with
        fb := (chars.foldl (renderChar scale) r).state.fb
        cursorX := (chars.foldl (renderChar scale) r).state.cursorX
        cursorY := (chars.foldl (renderChar scale) r).state.cursorY } := by
  induction chars generalizing r with
  | nil => rfl
  | cons c cs ih => rw [List.foldl_cons, ih, renderChar_state]

/-- The cursor invariant (10_state.md R25), as a property of the parameters and the two registers. -/
def State.cursorInside (s : State) : Prop := s.cursorX.toNat < s.cfg.fbW ∧ s.cursorY.toNat < s.cfg.fbH

/-- ADVANCE keeps the cursor invariant (42_text.md R115). -/
theorem advance_cursorInside {s : State} (hw : s.cfg.wf) (h : s.cursorInside) (scale : Byte) :
    (advance scale s).cursorInside := by
  obtain ⟨⟨hw1, hw2⟩, ⟨hh1, hh2⟩, _⟩ := hw
  obtain ⟨hx, hy⟩ := h
  unfold State.cursorInside
  rw [advance_cfg]
  unfold advance
  simp only
  split
  · split
    · exact ⟨by simp; omega, by simp; omega⟩
    · rename_i hny
      refine ⟨by simp; omega, ?_⟩
      simp only [State.setCursor_cursorY, BitVec.toNat_ofNat]
      rw [Nat.mod_eq_of_lt (by omega)]
      omega
  · rename_i hnx
    refine ⟨?_, ?_⟩
    · simp only [State.setCursor_cursorX, BitVec.toNat_ofNat]
      rw [Nat.mod_eq_of_lt (by omega)]
      omega
    · simpa [State.setCursor_cursorY, u16] using hy

/-- FB's canonical form and bounds, and the cursor invariant, through a rendered character. -/
theorem renderChar_keeps {r : Run} (hw : r.state.cfg.wf) (hc : r.state.cursorInside) (hf : r.state.fb.wf)
    (hi : ∀ c ∈ r.state.fb, c.1 < r.state.cfg.fbBytes) (scale code : Byte) :
    (renderChar scale r code).state.cursorInside ∧ (renderChar scale r code).state.fb.wf ∧
      ∀ c ∈ (renderChar scale r code).state.fb, c.1 < r.state.cfg.fbBytes := by
  unfold renderChar
  split
  · unfold renderGlyph
    simp only [advance_fb]
    refine ⟨advance_cursorInside ?_ ?_ scale, plotAll_wf hf _, plotAll_inside hi _⟩
    · rw [plotAll_cfg]; exact hw
    · unfold State.cursorInside; rw [plotAll_state]; exact hc
  · exact ⟨hc, hf, hi⟩

theorem renderChars_keeps {r : Run} (hw : r.state.cfg.wf) (hc : r.state.cursorInside) (hf : r.state.fb.wf)
    (hi : ∀ c ∈ r.state.fb, c.1 < r.state.cfg.fbBytes) (scale : Byte) (chars : List Byte) :
    (chars.foldl (renderChar scale) r).state.cursorInside ∧ (chars.foldl (renderChar scale) r).state.fb.wf ∧
      ∀ c ∈ (chars.foldl (renderChar scale) r).state.fb, c.1 < r.state.cfg.fbBytes := by
  induction chars generalizing r with
  | nil => exact ⟨hc, hf, hi⟩
  | cons c cs ih =>
    obtain ⟨h1, h2, h3⟩ := renderChar_keeps hw hc hf hi scale c
    have hcfg : (renderChar scale r c).state.cfg = r.state.cfg := by rw [renderChar_state]
    have := ih (r := renderChar scale r c) (by rw [hcfg]; exact hw) h1 h2 (by rw [hcfg]; exact h3)
    rw [hcfg] at this
    exact this

end Sys2Proof.Machine
end

