-- ==== Sys2Proof/Laws/Transport.lean ====
section
/-! SUPPORT. Send: what a sequence of Sends can do, in its three endings, and what a streaming command ends as. -/
namespace Sys2Proof.Machine

/-- The record of a byte sent. -/
def OutByte.record (b : OutByte) (r : SendResult) : TxRecord := { value := b.value, isData := b.isData, result := r }

theorem recordSend_eq (b : OutByte) (r : SendResult) (s : State) :
    recordSend b r s = { s with tx := s.tx ++ [b.record r] } := rfl

/-- Taking an answer uses up an answer and nothing else. -/
theorem takeAnswer_state (s : State) :
    (takeAnswer s).2 = { s with answers := (takeAnswer s).2.answers, draws := (takeAnswer s).2.draws } := by
  unfold takeAnswer; split <;> rfl

/-- A sequence of Sends changes TX and uses up answers; nothing else. -/
theorem sendAll_state (bs : List OutByte) (s : State) :
    (sendAll bs s).1 =
      { s with tx := (sendAll bs s).1.tx, answers := (sendAll bs s).1.answers, draws := (sendAll bs s).1.draws } := by
  induction bs generalizing s with
  | nil => rfl
  | cons b bs ih =>
    have ht := takeAnswer_state s
    unfold sendAll
    split
    · rename_i t heq
      rw [ih, recordSend_eq]
      rw [heq] at ht
      simp only at ht
      rw [ht]
    · rename_i t heq
      rw [heq] at ht
      simp only at ht
      rw [ht]; rfl
    · rename_i t heq
      rw [heq] at ht
      simp only at ht
      rw [ht]

/-- What a sequence of Sends did to TX, in each of its endings: every byte, or the bytes up to a failing one, or the
bytes before an outstanding one, each in order and once. -/
theorem sendAll_cases (bs : List OutByte) (s : State) :
    ((sendAll bs s).2 = .done ∧ (sendAll bs s).1.tx = s.tx ++ bs.map (·.record .ok)) ∨
    (∃ pre b post, bs = pre ++ b :: post ∧ (sendAll bs s).2 = .failed ∧
      (sendAll bs s).1.tx = s.tx ++ pre.map (·.record .ok) ++ [b.record .fail]) ∨
    (∃ pre b post, bs = pre ++ b :: post ∧ (sendAll bs s).2 = .waiting (b :: post) ∧
      (sendAll bs s).1.tx = s.tx ++ pre.map (·.record .ok)) := by
  induction bs generalizing s with
  | nil => left; simp [sendAll]
  | cons b bs ih =>
    have htx : (takeAnswer s).2.tx = s.tx := by rw [takeAnswer_state]
    unfold sendAll
    split
    · rename_i t heq
      have ht : t.tx = s.tx := by rw [heq] at htx; exact htx
      rcases ih (recordSend b .ok t) with ⟨h1, h2⟩ | ⟨pre, c, post, rfl, h1, h2⟩ | ⟨pre, c, post, rfl, h1, h2⟩
      · left; exact ⟨h1, by rw [h2, recordSend_eq]; simp [ht]⟩
      · right; left
        exact ⟨b :: pre, c, post, rfl, h1, by rw [h2, recordSend_eq]; simp [ht]⟩
      · right; right
        exact ⟨b :: pre, c, post, rfl, h1, by rw [h2, recordSend_eq]; simp [ht]⟩
    · rename_i t heq
      have ht : t.tx = s.tx := by rw [heq] at htx; exact htx
      right; left
      exact ⟨[], b, bs, rfl, rfl, by rw [recordSend_eq]; simp [ht]⟩
    · rename_i t heq
      have ht : t.tx = s.tx := by rw [heq] at htx; exact htx
      right; right
      exact ⟨[], b, bs, rfl, rfl, by simp [ht]⟩

/-- Every answer ok: every byte is sent and recorded, and exactly those answers are used up. -/
theorem sendAll_all_ok (bs : List OutByte) (s : State) (rest : List SendAnswer)
    (h : s.answers = List.replicate bs.length .ok ++ rest) :
    sendAll bs s = ({ s with tx := s.tx ++ bs.map (·.record .ok), answers := rest }, .done) := by
  induction bs generalizing s with
  | nil =>
    obtain rfl : s.answers = rest := by simpa using h
    simp [sendAll]
  | cons b bs ih =>
    have hs : s.answers = .ok :: (List.replicate bs.length .ok ++ rest) := by
      simpa [List.replicate_succ] using h
    have ht : takeAnswer s = (.ok, { s with answers := List.replicate bs.length .ok ++ rest }) := by
      simp [takeAnswer, hs]
    rw [sendAll, ht]
    simp only
    rw [ih _ rfl, recordSend_eq]
    simp

/-- The answer after `pre` is fail: the bytes up to that one are sent, the failing one is recorded so, the rest is not
sent (43_controller.md R136). -/
theorem sendAll_fail (pre : List OutByte) (b : OutByte) (post : List OutByte) (s : State) (rest : List SendAnswer)
    (h : s.answers = List.replicate pre.length .ok ++ .fail :: rest) :
    sendAll (pre ++ b :: post) s =
      ({ s with tx := s.tx ++ pre.map (·.record .ok) ++ [b.record .fail], answers := rest }, .failed) := by
  induction pre generalizing s with
  | nil =>
    have ht : takeAnswer s = (.fail, { s with answers := rest }) := by simp [takeAnswer, show s.answers = _ from h]
    simp [sendAll, ht, recordSend_eq]
  | cons c pre ih =>
    have hs : s.answers = .ok :: (List.replicate pre.length .ok ++ .fail :: rest) := by
      simpa [List.replicate_succ] using h
    have ht : takeAnswer s = (.ok, { s with answers := List.replicate pre.length .ok ++ .fail :: rest }) := by
      simp [takeAnswer, hs]
    rw [List.cons_append, sendAll, ht]
    simp only
    rw [ih _ rfl, recordSend_eq]
    simp

/-- The answer after `pre` is not there yet: the bytes of `pre` are sent and the machine waits for the next. -/
theorem sendAll_wait (pre : List OutByte) (b : OutByte) (post : List OutByte) (s : State) (rest : List SendAnswer)
    (h : s.answers = List.replicate pre.length .ok ++ .notYet :: rest) :
    sendAll (pre ++ b :: post) s =
      ({ s with tx := s.tx ++ pre.map (·.record .ok), answers := rest }, .waiting (b :: post)) := by
  induction pre generalizing s with
  | nil =>
    have ht : takeAnswer s = (.notYet, { s with answers := rest }) := by simp [takeAnswer, show s.answers = _ from h]
    simp [sendAll, ht]
  | cons c pre ih =>
    have hs : s.answers = .ok :: (List.replicate pre.length .ok ++ .notYet :: rest) := by
      simpa [List.replicate_succ] using h
    have ht : takeAnswer s = (.ok, { s with answers := List.replicate pre.length .ok ++ .notYet :: rest }) := by
      simp [takeAnswer, hs]
    rw [List.cons_append, sendAll, ht]
    simp only
    rw [ih _ rfl, recordSend_eq]
    simp

/-- Everything a streaming command can end as. -/
theorem runStream_cases (k : StreamCommand) (bs : List OutByte) (s : State) :
    ((sendAll bs s).2 = .done ∧ runStream k bs s = complete .ok [] (afterStream k (sendAll bs s).1)) ∨
    ((sendAll bs s).2 = .failed ∧ runStream k bs s = complete .transportFailure [] (sendAll bs s).1) ∨
    (∃ p, (sendAll bs s).2 = .waiting p ∧
      runStream k bs s = holdBusy { command := k, pending := p } (sendAll bs s).1) := by
  unfold runStream
  rcases h : sendAll bs s with ⟨t, e⟩
  cases e with
  | done => left; simp
  | failed => right; left; simp
  | waiting p => right; right; exact ⟨p, by simp⟩

/-- Going on with a streaming command appends to TX and touches neither FB nor the cursor, the binding, the port, the
parameters or the reset number (60_exceptions.md R158). -/
theorem runStream_keeps (k : StreamCommand) (bs : List OutByte) (s : State) :
    (∃ records, (runStream k bs s).tx = s.tx ++ records) ∧ (runStream k bs s).cursorX = s.cursorX ∧
    (runStream k bs s).cursorY = s.cursorY ∧ (runStream k bs s).bind = s.bind ∧ (runStream k bs s).fb = s.fb ∧
    (runStream k bs s).inbox = s.inbox ∧ (runStream k bs s).cfg = s.cfg ∧ (runStream k bs s).resets = s.resets := by
  have htx : ∃ records, (sendAll bs s).1.tx = s.tx ++ records := by
    rcases sendAll_cases bs s with ⟨_, h⟩ | ⟨_, _, _, _, _, h⟩ | ⟨_, _, _, _, _, h⟩
    · exact ⟨_, h⟩
    · exact ⟨_, by rw [h, List.append_assoc]⟩
    · exact ⟨_, h⟩
  have hst := sendAll_state bs s
  rcases runStream_cases k bs s with ⟨_, h⟩ | ⟨_, h⟩ | ⟨_, _, h⟩ <;> rw [h]
  · refine ⟨by cases k <;> simpa [afterStream] using htx, ?_⟩
    rw [hst]; cases k <;> simp [afterStream]
  · refine ⟨by simpa using htx, ?_⟩
    rw [hst]; simp
  · refine ⟨by simpa using htx, ?_⟩
    rw [hst]; simp

/-- The same of the step that goes on with a held command. -/
theorem resumeSend_keeps (s : State) :
    (∃ records, (resumeSend s).tx = s.tx ++ records) ∧ (resumeSend s).cursorX = s.cursorX ∧
    (resumeSend s).cursorY = s.cursorY ∧ (resumeSend s).bind = s.bind ∧ (resumeSend s).fb = s.fb ∧
    (resumeSend s).inbox = s.inbox ∧ (resumeSend s).cfg = s.cfg ∧ (resumeSend s).resets = s.resets := by
  unfold resumeSend
  split
  · exact runStream_keeps _ _ s
  · exact ⟨⟨[], by simp⟩, rfl, rfl, rfl, rfl, rfl, rfl, rfl⟩

end Sys2Proof.Machine
end

