-- ==== Sys2Proof/Laws/Commands.lean ====
section
/-! SUPPORT. What each command ends as: one equation a meaning, over the shared operations, for every state. -/
namespace Sys2Proof.Machine

theorem requireInitialized_of_eq {m : Nat} {s : State} {body : Host.Outcome State Fault Refusal}
    (h : s.status = .initialized) : requireInitialized m s body = body := by
  simp [requireInitialized, h]

theorem requireInitialized_of_ne {m : Nat} {s : State} {body : Host.Outcome State Fault Refusal}
    (h : s.status ≠ .initialized) :
    requireInitialized m s body = .next (complete .notInitialized (zeroData m) s) := by
  simp [requireInitialized, h, raiseError]

/-- What a command with the lifecycle check answers: the body, or NotInitialized (60_exceptions.md R155). -/
theorem requireInitialized_cases (m : Nat) (s : State) (body : Host.Outcome State Fault Refusal) :
    (s.status = .initialized ∧ requireInitialized m s body = body) ∨
    (s.status ≠ .initialized ∧
      requireInitialized m s body = .next (complete .notInitialized (zeroData m) s)) := by
  by_cases h : s.status = .initialized
  · exact Or.inl ⟨h, requireInitialized_of_eq h⟩
  · exact Or.inr ⟨h, requireInitialized_of_ne h⟩

/-- A shape command in the Initialized state: its plots, and InvalidArgument where one was rejected (41_raster.md). -/
theorem drawShape_eq {s : State} (h : s.status = .initialized) (on : Bool) (ps : List Point) :
    drawShape on ps s =
      .next (complete (pendingResult (ps.any (fun p => !inRange s.cfg p))) [] (plotAll on (startRun s) ps).state) := by
  unfold drawShape settle
  rw [requireInitialized_of_eq h, plotAll_latched]
  simp [startRun]

/-- The part of CLEAR before its stream changes FB and homes the cursor, nothing else (43_controller.md R133). -/
theorem blank_eq (s : State) : blank s = { s with fb := (blank s).fb, cursorX := 0, cursorY := 0 } := by
  unfold blank
  rw [setCursor_eq, zeroBytes_eq]
  rfl

/-- Every byte of FB is zero after it, and no other byte changed. -/
theorem memRead_blank (s : State) (i : Nat) :
    (blank s).memRead i = if i < s.cfg.fbBytes then 0x00 else s.memRead i := memRead_zeroBytes s s.cfg.fbBytes i

/-- What CLEAR streams as data: FB_BYTES zero bytes. -/
theorem fbContents_blank (s : State) : (blank s).fbContents = List.replicate s.cfg.fbBytes 0x00 := by
  have hcfg : (blank s).cfg = s.cfg := by rw [blank_eq]
  refine List.eq_replicate_iff.2 ⟨by simp [State.fbContents, hcfg], fun b hb => ?_⟩
  simp only [State.fbContents, hcfg, List.mem_map, List.mem_range] at hb
  obtain ⟨i, hi, rfl⟩ := hb
  rw [memRead_blank, if_pos hi]

/-- What a step can be: the held Send, an idle port, the reset event, an illegal packet, or a command. -/
theorem step_cases (s : State) :
    (s.busy = true ∧ step s = .next (resumeSend s)) ∨
    (s.busy = false ∧ s.inbox = [] ∧ step s = .next s) ∨
    (∃ rest, s.busy = false ∧ s.inbox = .reset :: rest ∧ step s = .next (applyReset s)) ∨
    (∃ p rest e, s.busy = false ∧ s.inbox = .packet p :: rest ∧ decode p = .error e ∧
      step s = .next (rejectPacket (acceptPacket s))) ∨
    (∃ p rest i, s.busy = false ∧ s.inbox = .packet p :: rest ∧ decode p = .ok i ∧
      step s = exec i (acceptPacket s)) := by
  unfold step fetch
  cases hb : s.busy
  · cases hi : s.inbox with
    | nil => simp
    | cons e rest =>
      cases e with
      | reset => simp
      | packet p => cases hd : decode p <;> simp [hd]
  · simp

end Sys2Proof.Machine
end

