-- ==== Sys2Proof/Laws/Decode.lean ====
section
/-! SUPPORT. The decoder's parts: the opcode map, 16-bit fields, the `on` byte. -/
namespace Sys2Proof

/-- No two rows of the opcode map share an opcode byte. -/
theorem opcodeMap_codes_distinct : (opcodeMap.map (·.code)).Nodup := by decide

/-- A row found for a byte is a row of the map, with that byte as its code. -/
theorem opRow_some {b : Byte} {row : OpRow} (h : opRow b = some row) : row ∈ opcodeMap ∧ row.code = b := by
  have h1 := List.mem_of_find?_eq_some h
  have h2 := List.find?_some h
  exact ⟨h1, by simpa using h2⟩

@[simp] theorem le16_lo8_hi8 (h : Half) : le16 (lo8 h) (hi8 h) = h := by
  unfold le16 lo8 hi8
  apply BitVec.eq_of_getLsbD_eq
  intro i hi
  rw [BitVec.getLsbD_append]
  by_cases h8 : i < 8
  · simp [h8]
  · have : i - 8 < 8 := by omega
    simp [h8, this, show 8 + (i - 8) = i by omega]

@[simp] theorem lo8_le16 (lo hi : Byte) : lo8 (le16 lo hi) = lo := by
  unfold le16 lo8
  apply BitVec.eq_of_getLsbD_eq
  intro i h8
  rw [BitVec.getLsbD_extractLsb', BitVec.getLsbD_append]
  simp [h8]

@[simp] theorem hi8_le16 (lo hi : Byte) : hi8 (le16 lo hi) = hi := by
  unfold le16 hi8
  apply BitVec.eq_of_getLsbD_eq
  intro i h8
  rw [BitVec.getLsbD_extractLsb', BitVec.getLsbD_append]
  simp [h8]

@[simp] theorem withOn_onByte (on : Bool) (k : Bool → Instr) : withOn (onByte on) k = .ok (k on) := by
  cases on <;> rfl

/-- A legal `on` byte is the byte of the Bool read from it (30_encoding.md R65). -/
theorem withOn_ok {b : Byte} {k : Bool → Instr} {i : Instr} (h : withOn b k = .ok i) :
    ∃ on, onByte on = b ∧ i = k on := by
  unfold withOn at h
  split at h
  · exact ⟨false, by simp [onByte, *], by simpa using h.symm⟩
  · split at h
    · exact ⟨true, by simp [onByte, *], by simpa using h.symm⟩
    · simp at h

theorem withOn_error {b : Byte} {k : Bool → Instr} {e : DecodeError} (h : withOn b k = .error e) : 1 < b.toNat := by
  unfold withOn at h
  split at h
  · simp at h
  · split at h
    · simp at h
    · rename_i h0 h1
      by_contra hlt
      have h01 : b.toNat = 0 ∨ b.toNat = 1 := by omega
      rcases h01 with hb | hb
      · exact h0 (BitVec.eq_of_toNat_eq (by simpa using hb))
      · exact h1 (BitVec.eq_of_toNat_eq (by simpa using hb))

/-- A byte without a row is the opcode of none (30_encoding.md R67). -/
theorem opRow_none {b : Byte} (h : opRow b = none) : ∀ row ∈ opcodeMap, row.code ≠ b := by
  intro row hrow
  simpa using List.find?_eq_none.1 h row hrow

/-! ## What each format accepts -/

theorem formatF0_ok {i j : Instr} {args : List Byte} (h : formatF0 i args = .ok j) : args = [] ∧ j = i := by
  unfold formatF0 at h; split at h <;> simp_all

theorem formatFB_ok {k : Byte → Byte → Byte → Byte → Byte → Instr} {j : Instr} {args : List Byte}
    (h : formatFB k args = .ok j) : ∃ a b c d e, args = [a, b, c, d, e] ∧ j = k a b c d e := by
  unfold formatFB at h
  split at h
  · exact ⟨_, _, _, _, _, rfl, by simpa using h.symm⟩
  · simp at h

theorem formatFP_ok {k : Half → Half → Bool → Instr} {j : Instr} {args : List Byte} (h : formatFP k args = .ok j) :
    ∃ x y on, args = [lo8 x, hi8 x, lo8 y, hi8 y, onByte on] ∧ j = k x y on := by
  unfold formatFP at h
  split at h
  · obtain ⟨on, rfl, rfl⟩ := withOn_ok h
    exact ⟨_, _, on, by simp, rfl⟩
  · simp at h

theorem formatFQ_ok {k : Half → Half → Instr} {j : Instr} {args : List Byte} (h : formatFQ k args = .ok j) :
    ∃ x y, args = [lo8 x, hi8 x, lo8 y, hi8 y] ∧ j = k x y := by
  unfold formatFQ at h
  split at h
  · rename_i x0 x1 y0 y1
    exact ⟨le16 x0 x1, le16 y0 y1, by simp, by simpa using h.symm⟩
  · simp at h

theorem formatFLR_ok {k : Half → Half → Half → Half → Bool → Instr} {j : Instr} {args : List Byte}
    (h : formatFLR k args = .ok j) :
    ∃ a b c d on, args = [lo8 a, hi8 a, lo8 b, hi8 b, lo8 c, hi8 c, lo8 d, hi8 d, onByte on] ∧ j = k a b c d on := by
  unfold formatFLR at h
  split at h
  · obtain ⟨on, rfl, rfl⟩ := withOn_ok h
    exact ⟨_, _, _, _, on, by simp, rfl⟩
  · simp at h

theorem formatFC_ok {k : Half → Half → Half → Bool → Instr} {j : Instr} {args : List Byte}
    (h : formatFC k args = .ok j) :
    ∃ a b c on, args = [lo8 a, hi8 a, lo8 b, hi8 b, lo8 c, hi8 c, onByte on] ∧ j = k a b c on := by
  unfold formatFC at h
  split at h
  · obtain ⟨on, rfl, rfl⟩ := withOn_ok h
    exact ⟨_, _, _, on, by simp, rfl⟩
  · simp at h

theorem formatFG_ok {k : Byte → Byte → Instr} {j : Instr} {args : List Byte} (h : formatFG k args = .ok j) :
    ∃ a b, args = [a, b] ∧ j = k a b := by
  unfold formatFG at h
  split at h
  · exact ⟨_, _, rfl, by simpa using h.symm⟩
  · simp at h

theorem formatFS_ok {k : Byte → Half → Half → List Byte → Instr} {j : Instr} {args : List Byte}
    (h : formatFS k args = .ok j) :
    ∃ scale x y chars, chars.length ≤ 255 ∧
      args = scale :: lo8 x :: hi8 x :: lo8 y :: hi8 y :: BitVec.ofNat 8 chars.length :: chars ∧
      j = k scale x y chars := by
  unfold formatFS at h
  split at h
  · rename_i scale x0 x1 y0 y1 n chars
    split at h
    · rename_i hn
      refine ⟨scale, le16 x0 x1, le16 y0 y1, chars, ?_, ?_, by simpa using h.symm⟩
      · have := n.isLt; omega
      · simp [hn]
    · simp at h
  · simp at h

/-! ## What each format refuses -/

theorem formatF0_error {i : Instr} {args : List Byte} {e : DecodeError} (h : formatF0 i args = .error e) :
    args.length ≠ 0 := by
  unfold formatF0 at h; split at h <;> simp_all

theorem formatFB_error {k : Byte → Byte → Byte → Byte → Byte → Instr} {args : List Byte} {e : DecodeError}
    (h : formatFB k args = .error e) : args.length ≠ 5 := by
  intro hl
  match args, hl with
  | [_, _, _, _, _], _ => simp [formatFB] at h

theorem formatFP_error {k : Half → Half → Bool → Instr} {args : List Byte} {e : DecodeError}
    (h : formatFP k args = .error e) : args.length ≠ 5 ∨ 1 < (args.getD 4 0).toNat := by
  by_cases hl : args.length = 5
  · match args, hl with
    | [_, _, _, _, on], _ => exact .inr (withOn_error h)
  · exact .inl hl

theorem formatFQ_error {k : Half → Half → Instr} {args : List Byte} {e : DecodeError}
    (h : formatFQ k args = .error e) : args.length ≠ 4 := by
  intro hl
  match args, hl with
  | [_, _, _, _], _ => simp [formatFQ] at h

theorem formatFLR_error {k : Half → Half → Half → Half → Bool → Instr} {args : List Byte} {e : DecodeError}
    (h : formatFLR k args = .error e) : args.length ≠ 9 ∨ 1 < (args.getD 8 0).toNat := by
  by_cases hl : args.length = 9
  · match args, hl with
    | [_, _, _, _, _, _, _, _, on], _ => exact .inr (withOn_error h)
  · exact .inl hl

theorem formatFC_error {k : Half → Half → Half → Bool → Instr} {args : List Byte} {e : DecodeError}
    (h : formatFC k args = .error e) : args.length ≠ 7 ∨ 1 < (args.getD 6 0).toNat := by
  by_cases hl : args.length = 7
  · match args, hl with
    | [_, _, _, _, _, _, on], _ => exact .inr (withOn_error h)
  · exact .inl hl

theorem formatFG_error {k : Byte → Byte → Instr} {args : List Byte} {e : DecodeError}
    (h : formatFG k args = .error e) : args.length ≠ 2 := by
  intro hl
  match args, hl with
  | [_, _], _ => simp [formatFG] at h

theorem formatFS_error {k : Byte → Half → Half → List Byte → Instr} {args : List Byte} {e : DecodeError}
    (h : formatFS k args = .error e) : args.length ≠ 6 + (args.getD 5 0).toNat := by
  match args with
  | [] => simp
  | [_] => simp
  | [_, _] => simp
  | [_, _, _] => simp
  | [_, _, _, _] => simp
  | [_, _, _, _, _] => simp
  | _ :: _ :: _ :: _ :: _ :: n :: chars =>
    simp only [formatFS] at h
    split at h
    · simp at h
    · simp only [List.length_cons, List.getD_cons_succ, List.getD_cons_zero]; omega

end Sys2Proof
end

