-- ==== Sys2Proof/Laws/PerInstr.lean ====
section
/-! SUPPORT. Statements about every command as syntax, one lemma per constructor. The family EncodedLength: the packet of
a command begins with an assigned opcode and has the length its format gives (30_encoding.md R62, R63). -/
namespace Sys2Proof.Laws

namespace EncodedLength

/-- The packet's opcode has a row, and the packet is as long as the row says: plus one byte a character for
DRAW_STRING. -/
def Statement (i : Instr) : Prop :=
  ∃ row, (encode i).head?.bind opRow = some row ∧
    (encode i).length = row.length + (match i with | .drawString _ _ _ chars => chars.length | _ => 0)

theorem nop : Statement .nop := ⟨⟨0x00, .nop, 1⟩, rfl, rfl⟩
theorem bindTransport (cs clk din dc rst : Byte) : Statement (.bindTransport cs clk din dc rst) :=
  ⟨⟨0x01, .bindTransport, 6⟩, rfl, rfl⟩
theorem init : Statement .init := ⟨⟨0x02, .init, 1⟩, rfl, rfl⟩
theorem clear : Statement .clear := ⟨⟨0x03, .clear, 1⟩, rfl, rfl⟩
theorem flush : Statement .flush := ⟨⟨0x04, .flush, 1⟩, rfl, rfl⟩
theorem getLastError : Statement .getLastError := ⟨⟨0x05, .getLastError, 1⟩, rfl, rfl⟩
theorem setPixel (x y : Half) (on : Bool) : Statement (.setPixel x y on) := ⟨⟨0x10, .setPixel, 6⟩, rfl, rfl⟩
theorem getPixel (x y : Half) : Statement (.getPixel x y) := ⟨⟨0x11, .getPixel, 5⟩, rfl, rfl⟩
theorem drawLine (x1 y1 x2 y2 : Half) (on : Bool) : Statement (.drawLine x1 y1 x2 y2 on) :=
  ⟨⟨0x20, .drawLine, 10⟩, rfl, rfl⟩
theorem drawRect (x y w h : Half) (on : Bool) : Statement (.drawRect x y w h on) := ⟨⟨0x21, .drawRect, 10⟩, rfl, rfl⟩
theorem drawFilledRect (x y w h : Half) (on : Bool) : Statement (.drawFilledRect x y w h on) :=
  ⟨⟨0x22, .drawFilledRect, 10⟩, rfl, rfl⟩
theorem drawCircle (cx cy r : Half) (on : Bool) : Statement (.drawCircle cx cy r on) :=
  ⟨⟨0x23, .drawCircle, 8⟩, rfl, rfl⟩
theorem setCursor (x y : Half) : Statement (.setCursor x y) := ⟨⟨0x30, .setCursor, 5⟩, rfl, rfl⟩
theorem getCursor : Statement .getCursor := ⟨⟨0x31, .getCursor, 1⟩, rfl, rfl⟩
theorem drawGlyph (code scale : Byte) : Statement (.drawGlyph code scale) := ⟨⟨0x32, .drawGlyph, 3⟩, rfl, rfl⟩
theorem drawString (scale : Byte) (x y : Half) (chars : List Byte) : Statement (.drawString scale x y chars) :=
  ⟨⟨0x33, .drawString, 7⟩, rfl, by simp [encode]; omega⟩

end EncodedLength

end Sys2Proof.Laws
end

