-- ==== Sys2Proof/Tests/Slice0.lean ====
section
/-! SUPPORT. The model's own tests: the well-formedness check, decoding of packets written out from 30_encoding.md, single
steps with the results of 95_test_vectors.md, and for every statement with hypotheses a state and operands that meet
them. -/
namespace Sys2Proof.Tests
open Sys2Proof.Machine Sys2Proof.Claims

/-! ## Helpers -/

/-- Two pages of sixteen zero bytes. -/
def zeroFb : Memory := (List.range 32).map (fun i => (i, 0x00))

/-- The ready state of 95_test_vectors.md §0, without its TX. -/
def ready : State :=
  { State.reset with
    status := .initialized
    bind := { cs := 0, clk := 1, din := 2, dc := 3, rst := 0xFF, bound := true }
    fb := zeroFb }

/-- The state after BIND_TRANSPORT 0,1,2,3,-. -/
def portsBound : State := { ready with status := .portsBound, fb := [] }

/-- `n` Sends that return ok, and then one answer. -/
def oks (n : Nat) (a : SendAnswer) (s : State) : State := { s with answers := List.replicate n .ok ++ [a] }

/-- The state a command leaves. -/
def after (i : Instr) (s : State) : State :=
  match exec i s with
  | .next t => t
  | .fault _ => s
  | .refused _ => s

/-- The state a step leaves. -/
def stepped (s : State) : State :=
  match step s with
  | .next t => t
  | .fault _ => s
  | .refused _ => s

/-- The last response: its code's number and its data. -/
def answer (s : State) : List (Byte × List Byte) := s.responses.map (fun r => (r.code.toByte, r.data))

/-- The bytes of FB that are not zero. -/
def shown (s : State) : Memory := s.fb.filter (fun c => c.2 != 0x00)

/-- A packet at the port of a state. -/
def offered (p : List Byte) (s : State) : State := { s with inbox := [.packet p] }

/-- INIT held in its second Send, from PortsBound. -/
def held : State := after .init (oks 1 .notYet portsBound)

/-! ## Well-formedness: the one check, and a command it refuses -/

theorem test_wellFormed_refuses_long_string : (Instr.drawString 1 0 0 (List.replicate 256 0x41)).wellFormed = false := by
  simp only [Instr.wellFormed, List.length_replicate]; decide

theorem test_wellFormed_accepts_255 : (Instr.drawString 1 0 0 (List.replicate 255 0x41)).wellFormed = true := by
  simp only [Instr.wellFormed, List.length_replicate]; decide

/-! ## Decoding: a packet of every command (30_encoding.md R62, R63; 95_test_vectors.md) -/

theorem test_opcodes_distinct : (opcodeMap.map (fun r => r.code)).Nodup := by decide
theorem test_opcode_count : opcodeMap.length = 16 := by decide
theorem test_decode_nop : decode [0x00] = .ok .nop := by rfl
theorem test_decode_bindTransport : decode [0x01, 0x00, 0x01, 0x02, 0x03, 0xFF] = .ok (.bindTransport 0 1 2 3 0xFF) := by
  rfl
theorem test_decode_init : decode [0x02] = .ok .init := by rfl
theorem test_decode_clear : decode [0x03] = .ok .clear := by rfl
theorem test_decode_flush : decode [0x04] = .ok .flush := by rfl
theorem test_decode_getLastError : decode [0x05] = .ok .getLastError := by rfl
theorem test_decode_setPixel : decode [0x10, 0x03, 0x00, 0x0A, 0x00, 0x01] = .ok (.setPixel 3 10 true) := by rfl
theorem test_decode_getPixel : decode [0x11, 0x00, 0x00, 0xFF, 0xFF] = .ok (.getPixel 0 0xFFFF) := by rfl
theorem test_decode_drawLine :
    decode [0x20, 0x00, 0x80, 0x01, 0x80, 0xFF, 0x7F, 0xFE, 0x7F, 0x01] =
      .ok (.drawLine 0x8000 0x8001 0x7FFF 0x7FFE true) := by rfl
theorem test_decode_drawRect :
    decode [0x21, 0x01, 0x00, 0x02, 0x00, 0x03, 0x00, 0x04, 0x01, 0x01] = .ok (.drawRect 1 2 3 0x0104 true) := by rfl
theorem test_decode_drawFilledRect :
    decode [0x22, 0x00, 0x00, 0x00, 0x00, 0x0F, 0x00, 0x08, 0x00, 0x00] = .ok (.drawFilledRect 0 0 15 8 false) := by rfl
theorem test_decode_drawCircle :
    decode [0x23, 0x0A, 0x00, 0x0B, 0x00, 0x03, 0x00, 0x01] = .ok (.drawCircle 10 11 3 true) := by rfl
theorem test_decode_setCursor : decode [0x30, 0x0F, 0x00, 0x10, 0x01] = .ok (.setCursor 15 0x0110) := by rfl
theorem test_decode_getCursor : decode [0x31] = .ok .getCursor := by rfl
theorem test_decode_drawGlyph : decode [0x32, 0x41, 0x02] = .ok (.drawGlyph 0x41 2) := by rfl
theorem test_decode_drawString :
    decode [0x33, 0x01, 0x03, 0x00, 0x04, 0x00, 0x02, 0x41, 0x42] = .ok (.drawString 1 3 4 [0x41, 0x42]) := by rfl

/-- V-DEC-1 to V-DEC-9 and V-DEC-11. -/
theorem test_decode_illegal :
    [[], [0x06], [0xFF, 0x00, 0x00], [0x10, 0x03, 0x00, 0x04, 0x00], [0x10, 0x03, 0x00, 0x04, 0x00, 0x01, 0x00],
     [0x10, 0x03, 0x00, 0x04, 0x00, 0x02], [0x21, 0x00, 0x00, 0x00, 0x00, 0x02, 0x00, 0x02, 0x00, 0xFF],
     [0x33, 0x01, 0x00, 0x00, 0x00, 0x00], [0x33, 0x01, 0x00, 0x00, 0x00, 0x00, 0x02, 0x41],
     [0x05, 0x00]].map (fun p => (decode p).toBool) = List.replicate 10 false := by rfl

/-! ## The two readings of a table word -/

theorem test_tableWord_circle : decodeTableWord 8 0x23 = some (.drawCircle 0 0 0 false) := by rfl
theorem test_tableWord_string : decodeTableWord 56 0x33 = some (.drawString 0 0 0 []) := by rfl
theorem test_tableWord_unassigned : decodeTableWord 8 0x06 = none := by rfl
theorem test_withFetchWord_nop :
    answer (stepped (State.reset.withFetchWord 8 0x00)) = [(0, [])] := by rfl
theorem test_withFetchWord_line :
    answer (stepped (State.reset.withFetchWord 8 0x20)) = [(1, [])] := by rfl

/-! ## Single commands (95_test_vectors.md) -/

/-- V-CTL-17. -/
theorem test_nop : (after .nop { ready with lastError := .invalidArgument }).lastError = .ok := by rfl

/-- V-CTL-1, V-CTL-3, V-CTL-5, V-CTL-6. -/
theorem test_bindTransport :
    (after (.bindTransport 0 1 2 3 0xFF) State.reset).status = .portsBound ∧
    answer (after (.bindTransport 0 1 2 3 0x10) State.reset) = [(3, [])] ∧
    answer (after (.bindTransport 0 1 2 3 3) State.reset) = [(3, [])] ∧
    (after (.bindTransport 0 1 2 3 4) State.reset).bind.rst = 4 := by decide

/-- V-CTL-8. -/
theorem test_init :
    (after .init (oks 3 .fail portsBound)).status = .initialized ∧
    (after .init (oks 3 .fail portsBound)).tx.map (fun r => r.value) = [0xA0, 0xA1, 0xA2] := by decide

/-- V-CTL-9. -/
theorem test_init_fails :
    (after .init (oks 1 .fail portsBound)).status = .portsBound ∧
    (after .init (oks 1 .fail portsBound)).tx = [⟨0xA0, false, .ok⟩, ⟨0xA1, false, .fail⟩] := by decide

/-- V-CTL-16. -/
theorem test_clear_fails :
    (after .clear (oks 2 .fail { ready with fb := [(0, 0x01)], cursorX := 6 })).fb = zeroFb ∧
    (after .clear (oks 2 .fail { ready with cursorX := 6 })).cursorX = 0 ∧
    (after .clear (oks 2 .fail ready)).tx = [⟨0xB0, false, .ok⟩, ⟨0xB1, false, .ok⟩, ⟨0x00, true, .fail⟩] := by decide

/-- W-2: the bytes CLEAR sends. -/
theorem test_clear :
    (after .clear (oks 34 .fail { ready with fb := [(7, 0xFF)] })).tx =
      [⟨0xB0, false, .ok⟩, ⟨0xB1, false, .ok⟩] ++ List.replicate 32 ⟨0x00, true, .ok⟩ := by rfl

/-- V-CTL-14. -/
theorem test_flush :
    (after .flush (oks 34 .fail (after (.setPixel 3 10 true) ready))).tx.map (fun r => r.value) =
      [0xB0, 0xB1] ++ List.replicate 19 0x00 ++ [0x04] ++ List.replicate 12 0x00 := by rfl

/-- V-CTL-19. -/
theorem test_getLastError :
    answer (after .getLastError (after .flush State.reset)) = [(1, []), (0, [0x01])] := by rfl

/-- V-PIX-1: (5,13), and V-PIX-4. -/
theorem test_setPixel :
    shown (after (.setPixel 5 13 true) ready) = [(21, 0x20)] ∧
    (after (.setPixel 3 10 false) { ready with fb := [(19, 0xFF)] }).fb = [(19, 0xFB)] := by decide

/-- V-PIX-2. -/
theorem test_setPixel_range :
    [(0xFFFF, 0), (16, 0), (0, 16), (0, 0xFFFF), (0x7FFF, 0x7FFF), (0x8000, 0)].map (fun p : Half × Half =>
      answer (after (.setPixel p.1 p.2 true) ready)) = List.replicate 6 [(4, [])] := by decide

/-- R84's example: pixels (3,10) and (3,9) with FB[19] = 0x04; V-PIX-2's GET_PIXEL 0,-1. -/
theorem test_getPixel :
    answer (after (.getPixel 3 10) { ready with fb := [(19, 0x04)] }) = [(0, [0x01])] ∧
    answer (after (.getPixel 3 9) { ready with fb := [(19, 0x04)] }) = [(0, [0x00])] ∧
    answer (after (.getPixel 0 0xFFFF) ready) = [(4, [0x00])] := by decide

/-- V-LIN-3, V-LIN-10: the points in the order they are visited. -/
theorem test_linePoints :
    linePoints 3 0 0 2 = [(3, 0), (2, 1), (1, 1), (0, 2)] ∧
    linePoints 0 0 (-3) (-6) = [(0, 0), (0, -1), (-1, -2), (-1, -3), (-2, -4), (-2, -5), (-3, -6)] := by decide

/-- V-LIN-9. -/
theorem test_drawLine :
    shown (after (.drawLine 3 0xFFFE 3 2 true) ready) = [(3, 0x07)] ∧
    answer (after (.drawLine 3 0xFFFE 3 2 true) ready) = [(4, [])] := by decide

set_option maxRecDepth 8000 in
/-- V-RCT-2, V-RCT-7. -/
theorem test_drawRect :
    shown (after (.drawRect 0 0 2 3 true) ready) = [(0, 0x07), (1, 0x05), (2, 0x07)] ∧
    shown (after (.drawRect 14 14 3 3 true) ready) = [(30, 0xC0), (31, 0x40)] := by decide

/-- V-RCT-7, V-RCT-8. -/
theorem test_drawFilledRect :
    shown (after (.drawFilledRect 14 14 3 3 true) ready) = [(30, 0xC0), (31, 0xC0)] ∧
    answer (after (.drawFilledRect 5 5 0xFFFF 0 true) ready) = [(0, [])] := by decide

/-- V-CIR-6. -/
theorem test_drawCircle :
    shown (after (.drawCircle 0 0 2 true) ready) = [(0, 0x04), (1, 0x04), (2, 0x03)] ∧
    answer (after (.drawCircle 0 0 2 true) ready) = [(4, [])] := by decide

/-- V-CIR-3: the sixteen pixels. -/
theorem test_circlePoints :
    (circlePoints 10 10 3).toFinset =
      {(7, 9), (7, 10), (7, 11), (8, 8), (8, 12), (9, 7), (9, 13), (10, 7), (10, 13), (11, 7), (11, 13), (12, 8), (12, 12),
       (13, 9), (13, 10), (13, 11)} := by decide

/-- The cursor commands of 95_test_vectors.md §5. -/
theorem test_setCursor :
    answer (after (.setCursor 0xFFFF 0) ready) = [(4, [])] ∧
    (after (.setCursor 15 15) ready).cursorX = 15 ∧ answer (after (.setCursor 16 0) ready) = [(4, [])] := by decide

/-- GET_CURSOR with two different bytes in each register, low byte first (R111). -/
theorem test_getCursor :
    answer (after .getCursor { ready with cursorX := 0x0102, cursorY := 0x0304 }) =
      [(0, [0x02, 0x01, 0x04, 0x03])] := by rfl

set_option maxRecDepth 8000 in
/-- V-TXT-1, V-TXT-10. -/
theorem test_drawGlyph :
    shown (after (.drawGlyph 0x41 1) ready) = [(0, 0x7E), (1, 0x11), (2, 0x11), (3, 0x11), (4, 0x7E)] ∧
    (after (.drawGlyph 0x41 1) { ready with cursorX := 15 }).cursorY = 8 ∧
    answer (after (.drawGlyph 0x41 1) { ready with cursorX := 15 }) = [(4, [])] := by decide

/-- V-TXT-4, V-TXT-5. -/
theorem test_drawGlyph_rejects :
    [(0x4A, 1), (0x1F, 1), (0x41, 0)].map (fun p : Byte × Byte => answer (after (.drawGlyph p.1 p.2) ready)) =
      List.replicate 3 [(4, [])] := by decide

set_option maxRecDepth 8000 in
/-- V-TXT-7. -/
theorem test_drawString :
    shown (after (.drawString 1 0 0 [0x41, 0x4A, 0x42]) ready) =
      [(0, 0x7E), (1, 0x11), (2, 0x11), (3, 0x11), (4, 0x7E), (6, 0x7F), (7, 0x49), (8, 0x49), (9, 0x49), (10, 0x36)] ∧
    (after (.drawString 1 0 0 [0x41, 0x4A, 0x42]) ready).cursorX = 12 := by decide

/-- V-ADV-1 to V-ADV-4. -/
theorem test_advance :
    [(4, 7), (9, 0), (10, 0), (10, 8)].map (fun p : Half × Half =>
      ((advance 1 { ready with cursorX := p.1, cursorY := p.2 }).cursorX,
       (advance 1 { ready with cursorX := p.1, cursorY := p.2 }).cursorY)) = [(10, 7), (15, 0), (0, 8), (0, 0)] := by
  decide

/-! ## Steps -/

/-- V-DEC-13: an illegal packet while Uninitialized. -/
theorem test_step_illegal : answer (stepped (offered [0x06] State.reset)) = [(7, [])] := by rfl

/-- V-DEC-12. -/
theorem test_step_init : answer (stepped (offered [0x02] State.reset)) = [(2, [])] := by rfl

/-- 60_exceptions.md R159 and log 6: a Send that has not returned holds BUSY, and the next answer ends the command. -/
theorem test_step_held :
    held.busy = true ∧ held.responses = [] ∧
    (stepped { held with answers := [.ok, .ok] }).status = .initialized ∧
    (stepped { held with answers := [.ok, .ok] }).busy = false := by decide

/-- 70_reset_and_hazards.md R171: after the reset event GET_LAST_ERROR returns 0, and the binding is gone. -/
theorem test_step_reset :
    (stepped { ready with inbox := [.reset] }).status = .uninitialized ∧
    (stepped { ready with inbox := [.reset] }).bind.bound = false ∧
    (stepped { ready with inbox := [.reset] }).fb = [] := by decide

/-- 10_state.md R22. -/
theorem test_statusValue : [Status.uninitialized, .portsBound, .initialized].map statusValue = [0, 1, 2] := by rfl

/-! ## A state and operands for every statement with hypotheses -/

theorem witness_EncodedCommandDecodesToItself :
    (Instr.drawString 2 3 4 [0x41]).wellFormed = true ∧
    (Instr.drawString 0 0 0 (List.replicate 255 0xFF)).wellFormed = true := by
  simp only [Instr.wellFormed, List.length_replicate]; decide

theorem witness_DecodedPacketIsThatCommandsPacket :
    decode [0x33, 0x01, 0x00, 0x00, 0x00, 0x00, 0x00] = .ok (.drawString 1 0 0 []) := by rfl

/-- Each of the four ways to be illegal, and the last legal `on` byte. -/
theorem witness_IllegalPacketOnlyReportsIllegalCommand :
    Illegal [] ∧ Illegal [0x34] ∧ Illegal [0x33, 0, 0, 0, 0, 0, 1] ∧ Illegal [0x10, 0, 0, 0, 0, 2] ∧
    ¬ (∃ e, decode [0x10, 0, 0, 0, 0, 1] = .error e) ∧
    (offered [0x10, 0, 0, 0, 0, 2] ready).busy = false ∧
    (offered [0x10, 0, 0, 0, 0, 2] ready).inbox = .packet [0x10, 0, 0, 0, 0, 2] :: [] := by
  refine ⟨Or.inl rfl, Or.inr (Or.inl (by decide)), Or.inr (Or.inr ⟨(0x33, 7, none), by decide, by decide, Or.inl (by decide)⟩),
    Or.inr (Or.inr ⟨(0x10, 6, some 5), by decide, by decide, Or.inr ⟨5, rfl, by decide⟩⟩), ?_, rfl, rfl⟩
  rintro ⟨e, h⟩
  cases h

theorem witness_StepExecutesTheDecodedCommand :
    (offered [0x31] ready).busy = false ∧ (offered [0x31] ready).inbox = .packet [0x31] :: [] ∧
    decode [0x31] = .ok .getCursor := ⟨rfl, rfl, rfl⟩

theorem witness_LastErrorIsTheResponsesCode :
    (∃ t, exec (.setPixel 16 0 true) ready = .next t ∧ t.busy = false) ∧
    (∃ t, exec .getLastError ready = .next t ∧ t.busy = false) ∧
    (∃ t, held.busy = true ∧ step { held with answers := [.fail] } = .next t ∧ t.busy = false) :=
  ⟨⟨_, rfl, rfl⟩, ⟨_, rfl, rfl⟩, ⟨_, rfl, rfl, rfl⟩⟩

/-- An error with data bytes, and a command that is held. -/
theorem witness_OneResponseOfFixedLength :
    (∃ t, exec .getCursor State.reset = .next t ∧ t.busy = false ∧ t.lastError ≠ .ok) ∧
    (∃ t, exec .init (oks 1 .notYet portsBound) = .next t ∧ t.busy = true) :=
  ⟨⟨_, rfl, rfl, by decide⟩, ⟨_, rfl, rfl⟩⟩

theorem witness_CommandsReportOnlyTheirCodes :
    (∃ t, exec (.bindTransport 0 0 2 3 0xFF) ready = .next t ∧ t.busy = false) ∧
    (∃ t, held.busy = true ∧ step { held with answers := [.ok, .ok] } = .next t ∧ t.busy = false) :=
  ⟨⟨_, rfl, rfl⟩, ⟨_, rfl, rfl, rfl⟩⟩

theorem witness_CommandsThatNeedInitializedDoNothingWithoutIt :
    (needsInitialized (.drawCircle 0 0 1 true) = true ∧ portsBound.status ≠ .initialized) ∧
    (∃ t, needsInitialized .nop = false ∧ exec .nop State.reset = .next t ∧
      t.responses = State.reset.responses ++ [{ code := .ok, data := [] }]) ∧
    State.reset.status = .uninitialized :=
  ⟨by decide, ⟨_, rfl, rfl, rfl⟩, rfl⟩

/-- A descriptor at the edges of the identifiers, one past them, and a held INIT that ends. -/
theorem witness_StatusMovesOnlyByBindAndInit :
    GoodDescriptor ready.cfg 0 1 2 15 0xFF ∧ ¬ GoodDescriptor ready.cfg 0 1 2 16 0xFF ∧
    (∃ t, exec .init (oks 3 .fail portsBound) = .next t ∧ portsBound.status ≠ .uninitialized ∧ t.busy = false ∧
      t.lastError = .ok) ∧
    (∃ w t, held.busy = true ∧ held.inFlight = some w ∧ step { held with answers := [.ok, .ok] } = .next t ∧
      w.command = .init ∧ t.busy = false ∧ t.lastError = .ok) :=
  ⟨by unfold GoodDescriptor; decide, by unfold GoodDescriptor; decide, ⟨_, rfl, by decide, rfl, rfl⟩, ⟨_, _, rfl, rfl, rfl, rfl, rfl, rfl⟩⟩

/-- A command that sends, one that does not, a held command that goes on, and steps that are not the reset event. -/
theorem witness_OnlySendingCommandsExtendTx :
    (∃ t, exec .init (oks 3 .fail portsBound) = .next t) ∧ (∃ t, exec .getCursor ready = .next t) ∧
    sends .getCursor = false ∧
    (∃ t, held.busy = true ∧ step { held with answers := [.ok, .notYet], inbox := [.reset] } = .next t ∧
      t.tx = held.tx ++ [⟨0xA1, false, .ok⟩]) ∧
    (∀ rest, (offered [0x06] ready).inbox ≠ .reset :: rest) ∧ ∃ t, step (offered [0x06] ready) = .next t :=
  ⟨⟨_, rfl⟩, ⟨_, rfl⟩, by decide, ⟨_, rfl, rfl, by decide⟩, (by intro rest h; cases h), ⟨_, rfl⟩⟩

theorem witness_EachRegisterHasItsWritersOnly :
    (∃ t, exec (.setCursor 1 1) ready = .next t) ∧ writesFb (.setCursor 1 1) = false ∧
    writesCursor (.setPixel 1 1 true) = false ∧ writesBinding .init = false := ⟨⟨_, rfl⟩, by decide, by decide, by decide⟩

theorem witness_StepsKeepGlyphRomAndParameters :
    (∃ t, step { ready with inbox := [.reset] } = .next t) ∧ (∃ t, step (offered [0x05] ready) = .next t) :=
  ⟨⟨_, rfl⟩, ⟨_, rfl⟩⟩

theorem fixture_wf : Config.fixture.wf := by decide

theorem ready_inv : ready.Inv where
  cfg_wf := fixture_wf
  cursorX_lt := by decide
  cursorY_lt := by decide
  bound_iff := by decide
  binding_valid := by decide
  lastError_ne := by decide
  fb_wf := by decide
  fb_inside := by decide
  busy_iff := rfl
  held_fits := by intro w h; cases h

theorem witness_StepKeepsTheInvariant : ready.Inv ∧ ∃ t, step (offered [0x31] ready) = .next t := ⟨ready_inv, ⟨_, rfl⟩⟩

theorem witness_ResetMeetsTheInvariant : Config.fixture.wf := fixture_wf

theorem witness_ResetEventRestoresResetValues :
    ({ ready with inbox := [.reset, .packet [0x00]] } : State).busy = false ∧
    ({ ready with inbox := [.reset, .packet [0x00]] } : State).inbox = .reset :: [.packet [0x00]] := ⟨rfl, rfl⟩

theorem witness_NothingStopsTheEngine : State.reset.busy = false ∧ State.reset.inbox = [] := ⟨rfl, rfl⟩

theorem witness_BusyEngineTakesNothingFromThePort :
    (∃ t, held.busy = true ∧ step { held with answers := [.ok, .notYet] } = .next t ∧ t.busy = true) :=
  ⟨_, rfl, rfl, rfl⟩

theorem witness_SendThatNeverReturnsHoldsTheEngine :
    ∃ w, held.busy = true ∧ held.inFlight = some w ∧ w.pending ≠ [] ∧
      ({ held with answers := [.notYet, .notYet, .ok] } : State).answers = List.replicate 2 .notYet ++ [.ok] :=
  ⟨_, rfl, rfl, by decide, rfl⟩

theorem witness_LateAnswerChangesNothingElse :
    sends .init = true ∧
    ∃ t, exec .init { portsBound with answers := List.replicate 1 .ok ++ .notYet :: [.ok, .ok] } = .next t ∧
      t.busy = true := ⟨by decide, ⟨_, rfl, rfl⟩⟩

/-- The rst field at its three edges, and a descriptor that fails by a repeated line. -/
theorem witness_BindTransportAcceptsExactlyValidDescriptors :
    GoodDescriptor ready.cfg 0 1 2 3 0xFF ∧ GoodDescriptor ready.cfg 0 1 2 3 15 ∧
    ¬ GoodDescriptor ready.cfg 0 1 2 3 16 ∧ ¬ GoodDescriptor ready.cfg 0 1 2 3 3 := by
  refine ⟨by unfold GoodDescriptor; decide, by unfold GoodDescriptor; decide, by unfold GoodDescriptor; decide, by unfold GoodDescriptor; decide⟩

theorem witness_InitRunsTheHandshake :
    portsBound.status ≠ .uninitialized ∧
    (oks 3 .fail portsBound).answers = List.replicate portsBound.cfg.initSeq.length .ok ++ [.fail] := ⟨by decide, rfl⟩

theorem witness_InitStopsAtTheFailingSend :
    portsBound.status ≠ .uninitialized ∧ portsBound.cfg.initSeq = [0xA0, 0xA1] ++ 0xA2 :: [] ∧
    (oks 2 .fail portsBound).answers = List.replicate [0xA0, 0xA1].length .ok ++ .fail :: [] :=
  ⟨by decide, rfl, rfl⟩

theorem witness_InitIsHeldByAnOutstandingSend :
    portsBound.status ≠ .uninitialized ∧ portsBound.cfg.initSeq = [] ++ 0xA0 :: [0xA1, 0xA2] ∧
    (oks 0 .notYet portsBound).answers = List.replicate 0 .ok ++ .notYet :: [] := ⟨by decide, rfl, rfl⟩

theorem witness_ClearZeroesHomesAndRepaints :
    ready.status = .initialized ∧
    (oks 34 .fail ready).answers =
      List.replicate (ready.cfg.homeSeq.length + ready.cfg.fbBytes) .ok ++ [.fail] := ⟨rfl, rfl⟩

theorem witness_FailedClearStaysCleared :
    ready.status = .initialized ∧
    streamOf ready.cfg (List.replicate ready.cfg.fbBytes 0x00) =
      [(0xB0, false), (0xB1, false)] ++ (0x00, true) :: List.replicate 31 (0x00, true) ∧
    (oks 2 .fail ready).answers = List.replicate [0xB0, 0xB1].length .ok ++ .fail :: [] := ⟨rfl, rfl, rfl⟩

/-- The first data byte is outstanding. -/
theorem witness_ClearIsHeldByAnOutstandingSend :
    ready.status = .initialized ∧
    streamOf ready.cfg (List.replicate ready.cfg.fbBytes 0x00) =
      [(0xB0, false), (0xB1, false)] ++ (0x00, true) :: List.replicate 31 (0x00, true) ∧
    (oks 2 .notYet ready).answers = List.replicate [0xB0, 0xB1].length .ok ++ .notYet :: [] := ⟨rfl, rfl, rfl⟩

/-- The very first byte is outstanding. -/
theorem witness_FlushIsHeldByAnOutstandingSend :
    ready.status = .initialized ∧
    streamOf ready.cfg (buffer ready) = [] ++ (0xB0, false) :: ((0xB1, false) :: List.replicate 32 (0x00, true)) ∧
    (oks 0 .notYet ready).answers = List.replicate 0 .ok ++ .notYet :: [] := ⟨rfl, rfl, rfl⟩

theorem witness_FlushSendsTheFrameBuffer :
    ready.status = .initialized ∧
    (oks 34 .notYet ready).answers =
      List.replicate (ready.cfg.homeSeq.length + ready.cfg.fbBytes) .ok ++ [.notYet] := ⟨rfl, rfl⟩

theorem witness_FailedFlushLeavesTheBuffer :
    ready.status = .initialized ∧
    streamOf ready.cfg (buffer ready) =
      [(0xB0, false)] ++ (0xB1, false) :: List.replicate 32 (0x00, true) ∧
    (oks 1 .fail ready).answers = List.replicate 1 .ok ++ .fail :: [] := ⟨rfl, rfl, rfl⟩

theorem witness_DisplayMirrorsBufferAfterOk :
    ∃ t, exec .flush (oks 34 .fail ready) = .next t ∧ t.busy = false ∧ t.lastError = .ok := ⟨_, rfl, rfl, rfl⟩

/-- The four corners of the buffer, and the four ways past them. -/
theorem witness_pixel_clauses :
    ready.status = .initialized ∧ State.reset.status ≠ .initialized ∧
    Inside ready.cfg 0 0 ∧ Inside ready.cfg 15 15 ∧ ¬ Inside ready.cfg 16 0 ∧ ¬ Inside ready.cfg 0 16 ∧
    ¬ Inside ready.cfg (0xFFFF : Half).toInt 0 ∧ ¬ Inside ready.cfg 0 (0x8000 : Half).toInt := by
  refine ⟨rfl, by decide, by unfold Inside; decide, by unfold Inside; decide, by unfold Inside; decide, by unfold Inside; decide, by unfold Inside; decide,
    by unfold Inside; decide⟩

theorem witness_PixelsAreDistinctBitsInsideTheBuffer :
    inRange ready.cfg (15, 15) = true ∧ inRange ready.cfg (15, 7) = true ∧ inRange ready.cfg (16, 0) = false := by decide

theorem witness_PlotsDependOnTheirSetOnly :
    (startRun ready).state.fb.wf ∧ ∀ p : Point, p ∈ [(1, 1), (2, 2), (1, 1)] ↔ p ∈ [(2, 2), (1, 1)] := by
  refine ⟨ready_inv.fb_wf, fun p => ?_⟩
  simp only [List.mem_cons, List.not_mem_nil, or_false]
  tauto

/-- A shape with a point out of range and one with none. -/
theorem witness_shape_clauses :
    ready.status = .initialized ∧ (15, 14) ∈ linePoints 14 14 18 14 ∧ (16, 14) ∈ linePoints 14 14 18 14 ∧
    inRange ready.cfg (15, 14) = true ∧ inRange ready.cfg (16, 14) = false ∧
    InBlock 1 1 3 2 (4, 2) ∧ ¬ InBlock 1 1 3 2 (5, 2) ∧ OnBoundary 0 0 2 3 (2, 1) ∧ ¬ OnBoundary 0 0 2 3 (1, 1) := by
  refine ⟨rfl, by decide, by decide, by decide, by decide, by unfold InBlock; decide, by unfold InBlock; decide,
    by unfold OnBoundary InBlock; decide, by unfold OnBoundary InBlock; decide⟩

theorem witness_LineWalksFromEndToEnd :
    (linePoints 3 0 0 2)[1]? = some (2, 1) ∧ (linePoints 3 0 0 2)[1 + 1]? = some (1, 1) := by decide

/-- Both clauses, and the degenerate line. -/
theorem witness_LineIsTheRoundedSegment :
    ((2 : Int) - 0).natAbs ≤ ((2 : Int) - 0).natAbs ∧ ((0 : Int) - 0).natAbs < ((3 : Int) - 0).natAbs ∧
    ((2 : Int) - 2).natAbs ≤ ((2 : Int) - 2).natAbs := by decide

theorem witness_CircleStepsFollowTheIdealCircle : (circleSteps 5)[3]? = some (4, 3, 3) := by decide

/-- The three branches of ADVANCE at their boundaries (V-ADV-2, V-ADV-3, V-ADV-4), from cursors inside the buffer. -/
theorem witness_advance_clauses :
    ready.cfg.wf ∧ 9 + ready.cfg.glyphCols * 1 + 1 < ready.cfg.fbW ∧ ready.cfg.fbW ≤ 10 + ready.cfg.glyphCols * 1 + 1 ∧
    0 + ready.cfg.glyphRows * 1 + 1 < ready.cfg.fbH ∧ ready.cfg.fbH ≤ 8 + ready.cfg.glyphRows * 1 + 1 ∧
    ready.cursorX.toNat < ready.cfg.fbW ∧ ready.cursorY.toNat < ready.cfg.fbH := by
  refine ⟨fixture_wf, by decide, by decide, by decide, by decide, by decide, by decide⟩

/-- The first and the last character with a glyph, and the two beside them. -/
theorem witness_glyph_clauses :
    ready.cfg.wf ∧ ready.status = .initialized ∧ 1 ≤ (1 : Byte).toNat ∧ HasGlyph ready.cfg 0x20 ∧
    HasGlyph ready.cfg 0x49 ∧ ¬ HasGlyph ready.cfg 0x1F ∧ ¬ HasGlyph ready.cfg 0x4A ∧
    GlyphPoint ready 0x41 1 (1, 4) := by
  refine ⟨fixture_wf, rfl, by decide, by unfold HasGlyph; decide, by unfold HasGlyph; decide, by unfold HasGlyph; decide, by unfold HasGlyph; decide, ?_⟩
  exact ⟨1, 4, by decide, by decide, by decide, by decide⟩

theorem witness_DrawStringIsSetCursorThenGlyphs :
    ready.status = .initialized ∧ 1 ≤ (2 : Byte).toNat ∧ Inside ready.cfg (15 : Half).toInt (0 : Half).toInt ∧
    ∀ c ∈ ([0x41, 0x42] : List Byte), HasGlyph ready.cfg c := by
  refine ⟨rfl, by decide, by unfold Inside; decide, by unfold HasGlyph; decide⟩

/-- FB_H = 12: page 1 has padding bits from bit 4 on (V-PIX-5). -/
theorem witness_OnlyClearWritesPaddingBits :
    let s : State := { ready with cfg := { Config.fixture with fbH := 12 } }
    (∃ t, exec (.setPixel 0 11 true) s = .next t) ∧ Instr.setPixel 0 11 true ≠ .clear ∧
    (s.cfg.pages - 1) * s.cfg.fbW ≤ 16 ∧ 16 < s.cfg.fbBytes ∧ s.cfg.fbH - 8 * (s.cfg.pages - 1) ≤ 4 ∧
    (after (.setPixel 0 11 true) s).fb.byteAt 16 = some 0x08 := by
  refine ⟨⟨_, rfl⟩, by decide, by decide, by decide, by decide, by decide⟩

end Sys2Proof.Tests
end

section
/-! What a command can do: the registers it writes, what it answers, and what a streaming command ends as. -/
namespace Sys2Proof.Machine
open Sys2Proof.Claims

/-! ## The registers a command writes -/

/-- `u` is `s` after the register writes of command `i`, before the command is reported: no write at all, or the writes
of one of the commands that have some (10_state.md R25, R27, R28). -/
inductive Written (s : State) : Instr → State → Prop
  | nothing {i : Instr} : Written s i s
  | binding {cs clk din dc rst : Byte} (hv : validDescriptor s.cfg cs clk din dc rst = true) :
      Written s (.bindTransport cs clk din dc rst) (bindLines cs clk din dc rst s)
  | blanked : Written s .clear (blank s)
  | plots {i : Instr} {on : Bool} {ps : List Point} (hi : writesFb i = true) :
      Written s i (plotAll on (startRun s) ps).state
  | cursor {x y : Half} (hr : inRange s.cfg (point x y) = true) :
      Written s (.setCursor x y) (s.setCursor (s16 x).toNat (s16 y).toNat)
  | glyph {code scale : Byte} : Written s (.drawGlyph code scale) (renderChar scale (startRun s) code).state
  | string {scale : Byte} {x y : Half} {chars : List Byte} (hr : inRange s.cfg (point x y) = true) :
      Written s (.drawString scale x y chars)
        (chars.foldl (renderChar scale) (startRun (s.setCursor (s16 x).toNat (s16 y).toNat))).state

/-- A command's own writes reach STATUS, the cursor, BIND_CFG and FB, nothing else. -/
theorem Written.state_eq {s u : State} {i : Instr} (h : Written s i u) :
    u = { s with
      status := u.status, cursorX := u.cursorX, cursorY := u.cursorY, bind := u.bind, fb := u.fb } := by
  cases h with
  | nothing => rfl
  | binding _ => rfl
  | blanked => rw [blank_eq]
  | plots _ => rw [plotAll_state]; rfl
  | cursor _ => rfl
  | glyph => rw [renderChar_state]; rfl
  | string _ => rw [renderChars_state]; rfl

theorem Written.responses_eq {s u : State} {i : Instr} (h : Written s i u) : u.responses = s.responses := by
  rw [h.state_eq]

theorem Written.inbox_eq {s u : State} {i : Instr} (h : Written s i u) : u.inbox = s.inbox := by rw [h.state_eq]

theorem Written.cfg_eq {s u : State} {i : Instr} (h : Written s i u) : u.cfg = s.cfg := by rw [h.state_eq]

theorem Written.resets_eq {s u : State} {i : Instr} (h : Written s i u) : u.resets = s.resets := by rw [h.state_eq]

/-- FB is written by the commands that plot and by CLEAR (10_state.md R28). -/
theorem Written.fb_eq {s u : State} {i : Instr} (h : Written s i u) (hi : writesFb i = false) : u.fb = s.fb := by
  cases h with
  | nothing => rfl
  | binding _ => rfl
  | blanked => cases hi
  | plots hp => simp [hp] at hi
  | cursor _ => rfl
  | glyph => cases hi
  | string _ => cases hi

/-- The cursor is written by SET_CURSOR, the text commands and CLEAR (10_state.md R25). -/
theorem Written.cursor_eq {s u : State} {i : Instr} (h : Written s i u) (hi : writesCursor i = false) :
    u.cursorX = s.cursorX ∧ u.cursorY = s.cursorY := by
  cases h with
  | nothing => exact ⟨rfl, rfl⟩
  | binding _ => exact ⟨rfl, rfl⟩
  | blanked => cases hi
  | plots _ => rw [plotAll_state]; exact ⟨rfl, rfl⟩
  | cursor _ => cases hi
  | glyph => cases hi
  | string _ => cases hi

/-- BIND_CFG and, before a stream, STATUS are written by BIND_TRANSPORT (10_state.md R23, R27). -/
theorem Written.binding_eq {s u : State} {i : Instr} (h : Written s i u) (hi : writesBinding i = false) :
    u.bind = s.bind ∧ u.status = s.status := by
  cases h with
  | nothing => exact ⟨rfl, rfl⟩
  | binding _ => cases hi
  | blanked => rw [blank_eq]; exact ⟨rfl, rfl⟩
  | plots _ => rw [plotAll_state]; exact ⟨rfl, rfl⟩
  | cursor _ => exact ⟨rfl, rfl⟩
  | glyph => rw [renderChar_state]; exact ⟨rfl, rfl⟩
  | string _ => rw [renderChars_state]; exact ⟨rfl, rfl⟩

/-! ## What a command answers -/

/-- The command a held Send belongs to. -/
def StreamCommand.instr : StreamCommand → Instr
  | .init => .init
  | .clear => .clear
  | .flush => .flush

/-- The STATUS a streaming command starts in (43_controller.md R132 to R134). -/
def StreamCommand.startsIn : StreamCommand → Status → Prop
  | .init, status => status ≠ .uninitialized
  | .clear, status => status = .initialized
  | .flush, status => status = .initialized

theorem InFlight.fits_iff (w : InFlight) (status : Status) :
    w.fits status ↔ w.pending ≠ [] ∧ w.command.startsIn status := by
  obtain ⟨command, pending⟩ := w
  cases command <;> rfl

/-- A code of the command's row with data of the command's length, zero bytes with an error (60_exceptions.md R151,
30_encoding.md R68). -/
def Reportable (i : Instr) (code : ResultCode) (data : List Byte) : Prop :=
  code ∈ mayReport i ∧ data.length = dataLength i ∧ (code ≠ .ok → ∀ b ∈ data, b = 0)

theorem Reportable.ok {i : Instr} {data : List Byte} (hc : .ok ∈ mayReport i) (hd : data.length = dataLength i) :
    Reportable i .ok data :=
  ⟨hc, hd, fun h => absurd rfl h⟩

theorem Reportable.error {i : Instr} {code : ResultCode} (hc : code ∈ mayReport i) :
    Reportable i code (zeroData (dataLength i)) :=
  ⟨hc, List.length_replicate, fun _ _ hb => List.eq_of_mem_replicate hb⟩

/-- What `exec` answers: the command's code and data over its register writes; GET_LAST_ERROR's own response; or a stream
of Sends run over the register writes. -/
inductive Ends (s : State) (i : Instr) : Host.Outcome State Fault Refusal → Prop
  | completes {u : State} {code : ResultCode} {data : List Byte} (hw : Written s i u) (hi : i ≠ .getLastError)
      (hr : Reportable i code data) : Ends s i (.next (complete code data u))
  | readsLastError (hi : i = .getLastError) : Ends s i (.next (deliver .ok [s.lastError.toByte] s))
  | streams {u : State} {k : StreamCommand} {bs : List OutByte} (hw : Written s i u) (hk : k.instr = i)
      (hs : k.startsIn s.status) : Ends s i (.next (runStream k bs u))

theorem Ends.lifecycle {s : State} {i : Instr} {body : Host.Outcome State Fault Refusal} (hi : i ≠ .getLastError)
    (hc : .notInitialized ∈ mayReport i) (h : s.status = .initialized → Ends s i body) :
    Ends s i (requireInitialized (dataLength i) s body) := by
  rcases requireInitialized_cases (dataLength i) s body with ⟨hs, heq⟩ | ⟨_, heq⟩ <;> rw [heq]
  · exact h hs
  · exact .completes .nothing hi (.error hc)

/-- The commands that may report OK, NotInitialized and InvalidArgument: those that draw or take a position. -/
abbrev Draws (i : Instr) : Prop := mayReport i = [.ok, .notInitialized, .invalidArgument]

theorem Draws.ne_getLastError {i : Instr} (hi : Draws i) : i ≠ .getLastError := by
  rintro rfl
  cases hi

theorem Ends.checked {s : State} {i : Instr} (hi : Draws i) {body : Host.Outcome State Fault Refusal}
    (h : Ends s i body) : Ends s i (requireInitialized (dataLength i) s body) :=
  .lifecycle hi.ne_getLastError (by rw [hi]; simp) fun _ => h

theorem Ends.answered {s u : State} {i : Instr} (hi : Draws i) (hw : Written s i u) {data : List Byte}
    (hd : data.length = dataLength i) : Ends s i (resultOk data u) :=
  .completes hw hi.ne_getLastError (.ok (by rw [hi]; simp) hd)

theorem Ends.rejected {s : State} {i : Instr} (hi : Draws i) :
    Ends s i (raiseError .invalidArgument (dataLength i) s) :=
  .completes .nothing hi.ne_getLastError (.error (by rw [hi]; simp))

/-- A command without data that ends with its pending result (60_exceptions.md R154). -/
theorem Ends.settled {s : State} {i : Instr} {r : Run} (hi : Draws i) (hd : dataLength i = 0)
    (hw : Written s i r.state) : Ends s i (settle r) :=
  .completes hw hi.ne_getLastError
    ⟨by rw [hi]; cases r.latched <;> simp [pendingResult], hd.symm, fun _ _ hb => nomatch hb⟩

theorem drawShape_ends {s : State} {i : Instr} (hi : Draws i) (hd : dataLength i = 0) (hf : writesFb i = true)
    (on : Bool) (ps : List Point) : Ends s i (drawShape on ps s) := by
  have h := Ends.checked hi (.settled hi hd (.plots (on := on) (ps := ps) hf) : Ends s i _)
  rwa [hd] at h

theorem execBindTransport_ends (cs clk din dc rst : Byte) (s : State) :
    Ends s (.bindTransport cs clk din dc rst) (execBindTransport cs clk din dc rst s) := by
  unfold execBindTransport
  split
  · rename_i hv
    exact .completes (.binding hv) (by simp) (.ok (by simp [mayReport, opOf]) rfl)
  · exact .completes .nothing (by simp) (.error (by simp [mayReport, opOf]))

theorem execInit_ends (s : State) : Ends s .init (execInit s) := by
  unfold execInit
  split
  · exact .completes .nothing (by simp) (.error (by simp [mayReport, opOf]))
  · rename_i hs
    exact .streams .nothing rfl hs

theorem execClear_ends (s : State) : Ends s .clear (execClear s) :=
  .lifecycle (by simp) (by simp [mayReport, opOf]) fun hs => .streams .blanked rfl hs

theorem execFlush_ends (s : State) : Ends s .flush (execFlush s) :=
  .lifecycle (by simp) (by simp [mayReport, opOf]) fun hs => .streams .nothing rfl hs

theorem execSetPixel_ends (x y : Half) (on : Bool) (s : State) :
    Ends s (.setPixel x y on) (execSetPixel x y on s) := by
  refine .checked rfl ?_
  split
  · exact .settled rfl rfl (.plots (ps := [point x y]) rfl)
  · exact .rejected rfl

theorem execGetPixel_ends (x y : Half) (s : State) : Ends s (.getPixel x y) (execGetPixel x y s) := by
  refine .checked rfl ?_
  split
  · exact .answered rfl .nothing rfl
  · exact .rejected rfl

theorem execSetCursor_ends (x y : Half) (s : State) : Ends s (.setCursor x y) (execSetCursor x y s) := by
  refine .checked rfl ?_
  split
  · rename_i hr
    exact .answered rfl (.cursor hr) rfl
  · exact .rejected rfl

theorem execDrawGlyph_ends (code scale : Byte) (s : State) :
    Ends s (.drawGlyph code scale) (execDrawGlyph code scale s) := by
  refine .checked rfl ?_
  split
  · exact .rejected rfl
  · split
    · rename_i hok
      have hrender : renderGlyph scale (startRun s) code = renderChar scale (startRun s) code := by
        simp [renderChar, startRun, hok]
      exact .settled rfl rfl (hrender ▸ .glyph)
    · exact .rejected rfl

theorem execDrawString_ends (scale : Byte) (x y : Half) (chars : List Byte) (s : State) :
    Ends s (.drawString scale x y chars) (execDrawString scale x y chars s) := by
  refine .checked rfl ?_
  split
  · exact .rejected rfl
  · rename_i hr
    exact .settled rfl rfl (.string (by simpa using (not_or.1 hr).2))

/-- What every command can do. -/
theorem exec_ends (i : Instr) (s : State) : Ends s i (exec i s) := by
  cases i with
  | nop => exact .completes .nothing (by simp) (.ok (by simp [mayReport, opOf]) rfl)
  | bindTransport cs clk din dc rst => exact execBindTransport_ends cs clk din dc rst s
  | init => exact execInit_ends s
  | clear => exact execClear_ends s
  | flush => exact execFlush_ends s
  | getLastError => exact .readsLastError rfl
  | setPixel x y on => exact execSetPixel_ends x y on s
  | getPixel x y => exact execGetPixel_ends x y s
  | drawLine x1 y1 x2 y2 on => exact drawShape_ends rfl rfl rfl _ _
  | drawRect x y w h on => exact drawShape_ends rfl rfl rfl _ _
  | drawFilledRect x y w h on => exact drawShape_ends rfl rfl rfl _ _
  | drawCircle cx cy r on => exact drawShape_ends rfl rfl rfl _ _
  | setCursor x y => exact execSetCursor_ends x y s
  | getCursor =>
    exact .lifecycle (by simp) (by simp [mayReport, opOf]) fun _ =>
      .completes .nothing (by simp) (.ok (by simp [mayReport, opOf]) rfl)
  | drawGlyph code scale => exact execDrawGlyph_ends code scale s
  | drawString scale x y chars => exact execDrawString_ends scale x y chars s

theorem ends_of_exec {i : Instr} {s t : State} (he : exec i s = .next t) : Ends s i (.next t) :=
  he ▸ exec_ends i s

/-! ## What a streaming command ends as -/

/-- A stream that is over has delivered one response without data, whose code is in LAST_ERROR (43_controller.md R132,
R136). -/
theorem runStream_ended {k : StreamCommand} {bs : List OutByte} {s : State}
    (h : (runStream k bs s).busy = false) :
    ∃ code ∈ [ResultCode.ok, .transportFailure],
      (runStream k bs s).responses = s.responses ++ [{ code := code, data := [] }] ∧
      (runStream k bs s).lastError = code := by
  have hst := sendAll_state bs s
  rcases runStream_cases k bs s with ⟨_, heq⟩ | ⟨_, heq⟩ | ⟨_, _, heq⟩
  · refine ⟨.ok, by simp, ?_⟩
    rw [heq, hst]
    cases k <;> exact ⟨rfl, rfl⟩
  · refine ⟨.transportFailure, by simp, ?_⟩
    rw [heq, hst]
    exact ⟨rfl, rfl⟩
  · simp [heq] at h

/-- A stream moves STATUS only where it is INIT's and ends with OK (43_controller.md R132). -/
theorem runStream_status (k : StreamCommand) (bs : List OutByte) (s : State) :
    (runStream k bs s).status =
      if k = .init ∧ (runStream k bs s).busy = false ∧ (runStream k bs s).lastError = .ok then .initialized
      else s.status := by
  have hst : (sendAll bs s).1.status = s.status := by rw [sendAll_state]
  rcases runStream_cases k bs s with ⟨_, heq⟩ | ⟨_, heq⟩ | ⟨_, _, heq⟩ <;> rw [heq]
  · cases k <;> simp [afterStream, hst]
  · simp [hst]
  · simp [hst]

end Sys2Proof.Machine
end

section
/-! The invariant of the state, kept by every command and every step. -/
namespace Sys2Proof.Machine
open Sys2Proof.Claims

/-- The state with no command in execution. A command that has been accepted has BUSY = 1 and nothing in flight, so what
it keeps up to its end is the invariant of its released state. -/
def State.released (s : State) : State := { s with busy := false, inFlight := none }

theorem State.Inv.released {s : State} (h : s.Inv) : s.released.Inv :=
  { h with busy_iff := rfl, held_fits := fun _ hw => nomatch hw }

/-- FB and the cursor may be written, with addresses in order and inside FB and the cursor inside the buffer. -/
theorem State.Inv.withCanvas {s : State} (h : s.Inv) {fb : Memory} {x y : Half} (hx : x.toNat < s.cfg.fbW)
    (hy : y.toNat < s.cfg.fbH) (hwf : fb.wf) (hin : ∀ cell ∈ fb, cell.1 < s.cfg.fbBytes) :
    ({ s with fb := fb, cursorX := x, cursorY := y } : State).Inv :=
  { h with cursorX_lt := hx, cursorY_lt := hy, fb_wf := hwf, fb_inside := hin }

/-! ## The register writes -/

theorem blank_released_inv {s : State} (h : s.released.Inv) : (blank s).released.Inv := by
  obtain ⟨⟨hw, _⟩, ⟨hh, _⟩, _⟩ := h.cfg_wf
  rw [blank_eq]
  exact h.withCanvas (x := 0) (y := 0) hw hh (zeroBytes_wf (s := s) h.fb_wf _)
    (zeroBytes_inside (s := s) h.fb_inside _ le_rfl)

theorem plotAll_released_inv {s : State} (h : s.released.Inv) (on : Bool) (ps : List Point) :
    (plotAll on (startRun s) ps).state.released.Inv := by
  rw [plotAll_state]
  exact h.withCanvas h.cursorX_lt h.cursorY_lt (plotAll_wf h.fb_wf ps) (plotAll_inside h.fb_inside ps)

theorem toNat_ofNat_lt {w n b : Nat} (h : n < b) : (BitVec.ofNat w n).toNat < b := by
  rw [BitVec.toNat_ofNat]
  exact lt_of_le_of_lt (Nat.mod_le _ _) h

/-- A point that passes the range check is a cursor position inside the buffer (10_state.md R25). -/
theorem setCursor_released_inv {s : State} (h : s.released.Inv) {x y : Half}
    (hr : inRange s.cfg (point x y) = true) : (s.setCursor (s16 x).toNat (s16 y).toNat).released.Inv := by
  obtain ⟨hx0, hx1, hy0, hy1⟩ := (inRange_iff _ _).1 hr
  simp only [point] at hx0 hx1 hy0 hy1
  exact h.withCanvas (toNat_ofNat_lt (by omega : (s16 x).toNat < s.cfg.fbW))
    (toNat_ofNat_lt (by omega : (s16 y).toNat < s.cfg.fbH)) h.fb_wf h.fb_inside

theorem renderChars_released_inv {s : State} (h : s.released.Inv) (scale : Byte) (chars : List Byte) :
    (chars.foldl (renderChar scale) (startRun s)).state.released.Inv := by
  obtain ⟨hcursor, hwf, hin⟩ := renderChars_keeps (r := startRun s) h.cfg_wf ⟨h.cursorX_lt, h.cursorY_lt⟩ h.fb_wf
    h.fb_inside scale chars
  rw [renderChars_state] at hcursor ⊢
  exact h.withCanvas hcursor.1 hcursor.2 hwf hin

theorem Written.released_inv {s u : State} {i : Instr} (hw : Written s i u) (h : s.released.Inv) :
    u.released.Inv := by
  cases hw with
  | nothing => exact h
  | binding hv =>
    exact { h with
      bound_iff := by simp [State.released]
      binding_valid := fun _ => hv
      held_fits := fun _ hw => nomatch hw }
  | blanked => exact blank_released_inv h
  | plots _ => exact plotAll_released_inv h _ _
  | cursor hr => exact setCursor_released_inv h hr
  | @glyph code scale => exact renderChars_released_inv h scale [code]
  | string hr => exact renderChars_released_inv (setCursor_released_inv h hr) _ _

/-! ## The ends of a command -/

theorem complete_inv {s : State} (h : s.released.Inv) {code : ResultCode} (hc : code ≠ .bufferAllocationFailed)
    (data : List Byte) : (complete code data s).Inv :=
  { h with lastError_ne := hc }

theorem afterStream_released_inv {s : State} (h : s.released.Inv) {k : StreamCommand} (hk : k.startsIn s.status) :
    (afterStream k s).released.Inv := by
  cases k with
  | init =>
    have hbound : s.bind.bound = true := h.bound_iff.2 hk
    exact { h with
      bound_iff := by simp [State.released, afterStream, hbound]
      held_fits := fun _ hw => nomatch hw }
  | clear => exact h
  | flush => exact h

/-- The bytes left when a Send has not returned begin with that Send's (60_exceptions.md R159). -/
theorem sendAll_waiting_ne_nil {bs pending : List OutByte} {s : State} (h : (sendAll bs s).2 = .waiting pending) :
    pending ≠ [] := by
  rcases sendAll_cases bs s with ⟨hend, _⟩ | ⟨_, _, _, _, hend, _⟩ | ⟨_, _, _, _, hend, _⟩ <;> rw [hend] at h
  · cases h
  · cases h
  · cases h
    simp

theorem runStream_inv {s : State} (h : s.released.Inv) {k : StreamCommand} (hk : k.startsIn s.status)
    (bs : List OutByte) : (runStream k bs s).Inv := by
  have hsent : (sendAll bs s).1.released.Inv := by
    rw [sendAll_state]
    exact { h with }
  have hstatus : (sendAll bs s).1.status = s.status := by rw [sendAll_state]
  rcases runStream_cases k bs s with ⟨_, heq⟩ | ⟨_, heq⟩ | ⟨pending, hwait, heq⟩ <;> rw [heq]
  · exact complete_inv (afterStream_released_inv hsent (hstatus ▸ hk)) (by simp) []
  · exact complete_inv hsent (by simp) []
  · have hfits : (InFlight.mk k pending).fits (sendAll bs s).1.status :=
      (InFlight.fits_iff _ _).2 ⟨sendAll_waiting_ne_nil hwait, hstatus ▸ hk⟩
    exact { hsent with busy_iff := rfl, held_fits := by rintro w ⟨⟩; exact hfits }

/-- BufferAllocationFailed is in no command's row (43_controller.md R138). -/
theorem Reportable.ne_bufferAllocationFailed {i : Instr} {code : ResultCode} {data : List Byte}
    (h : Reportable i code data) : code ≠ .bufferAllocationFailed := by
  obtain ⟨hc, _⟩ := h
  rintro rfl
  unfold mayReport at hc
  split_ifs at hc <;> simp at hc

/-! ## Commands and steps -/

theorem Written.startsIn {s u : State} {k : StreamCommand} (hw : Written s k.instr u) (hk : k.startsIn s.status) :
    k.startsIn u.status := by
  have hb : writesBinding k.instr = false := by cases k <;> rfl
  rwa [(hw.binding_eq hb).2]

theorem exec_inv {s t : State} {i : Instr} (h : s.released.Inv) (he : exec i s = .next t) : t.Inv := by
  cases ends_of_exec he with
  | completes hw _ hr => exact complete_inv (hw.released_inv h) hr.ne_bufferAllocationFailed _
  | readsLastError _ => exact { h with }
  | streams hw hk hs =>
    subst hk
    exact runStream_inv (hw.released_inv h) (hw.startsIn hs) _

theorem resumeSend_inv {s : State} (h : s.Inv) : (resumeSend s).Inv := by
  unfold resumeSend
  split
  · rename_i w hw
    exact runStream_inv h.released ((InFlight.fits_iff _ _).1 (h.held_fits w hw)).2 _
  · exact h

theorem resetWith_inv {c : Config} (hc : c.wf) (n : Nat) (inbox : List HostEvent) (answers : List SendAnswer)
    (draws : Nat) : (State.resetWith c n inbox answers draws).Inv := by
  have ⟨⟨hw, _⟩, ⟨hh, _⟩, _⟩ := hc
  exact {
    cfg_wf := hc
    cursorX_lt := hw
    cursorY_lt := hh
    bound_iff := by simp [State.resetWith]
    binding_valid := by simp [State.resetWith]
    lastError_ne := by simp [State.resetWith]
    fb_wf := .nil
    fb_inside := by simp [State.resetWith]
    busy_iff := rfl
    held_fits := fun _ hw => nomatch hw }

/-- The state a step leaves, by what the step was: the held Send, an idle port, the reset event, an illegal packet, or a
command. -/
theorem next_of_step {s t : State} (hstep : step s = .next t) :
    t = resumeSend s ∨ t = s ∨ t = applyReset s ∨ t = rejectPacket (acceptPacket s) ∨
      ∃ i, exec i (acceptPacket s) = .next t := by
  rcases step_cases s with ⟨_, heq⟩ | ⟨_, _, heq⟩ | ⟨_, _, _, heq⟩ | ⟨_, _, _, _, _, _, heq⟩ | ⟨_, _, i, _, _, _, heq⟩ <;>
    rw [heq] at hstep
  · exact .inl (by simpa using hstep.symm)
  · exact .inr (.inl (by simpa using hstep.symm))
  · exact .inr (.inr (.inl (by simpa using hstep.symm)))
  · exact .inr (.inr (.inr (.inl (by simpa using hstep.symm))))
  · exact .inr (.inr (.inr (.inr ⟨i, hstep⟩)))

theorem acceptPacket_released_inv {s : State} (h : s.Inv) : (acceptPacket s).released.Inv :=
  { h.released with }

theorem step_inv {s t : State} (h : s.Inv) (hstep : step s = .next t) : t.Inv := by
  rcases next_of_step hstep with rfl | rfl | rfl | rfl | ⟨i, he⟩
  · exact resumeSend_inv h
  · exact h
  · exact resetWith_inv h.cfg_wf _ _ _ _
  · exact complete_inv (acceptPacket_released_inv h) (by simp) []
  · exact exec_inv (acceptPacket_released_inv h) he

end Sys2Proof.Machine
end

section
/-! Packets: a packet that decodes is that command's packet, and it is legal in the words of 30_encoding.md R66. -/
namespace Sys2Proof
open Sys2Proof.Claims

/-- The opcode byte of an opcode (30_encoding.md R63). -/
def Op.code : Op → Byte
  | .nop => 0x00
  | .bindTransport => 0x01
  | .init => 0x02
  | .clear => 0x03
  | .flush => 0x04
  | .getLastError => 0x05
  | .setPixel => 0x10
  | .getPixel => 0x11
  | .drawLine => 0x20
  | .drawRect => 0x21
  | .drawFilledRect => 0x22
  | .drawCircle => 0x23
  | .setCursor => 0x30
  | .getCursor => 0x31
  | .drawGlyph => 0x32
  | .drawString => 0x33

theorem opcodeMap_code : ∀ row ∈ opcodeMap, row.code = row.op.code := by decide

/-- Operand bytes that decode are the operand bytes of the command they decode to. -/
theorem decodeOperands_ok {op : Op} {args : List Byte} {i : Instr} (h : decodeOperands op args = .ok i) :
    i.wellFormed = true ∧ encode i = op.code :: args := by
  cases op with
  | nop => obtain ⟨rfl, rfl⟩ := formatF0_ok h; exact ⟨rfl, rfl⟩
  | bindTransport => obtain ⟨_, _, _, _, _, rfl, rfl⟩ := formatFB_ok h; exact ⟨rfl, rfl⟩
  | init => obtain ⟨rfl, rfl⟩ := formatF0_ok h; exact ⟨rfl, rfl⟩
  | clear => obtain ⟨rfl, rfl⟩ := formatF0_ok h; exact ⟨rfl, rfl⟩
  | flush => obtain ⟨rfl, rfl⟩ := formatF0_ok h; exact ⟨rfl, rfl⟩
  | getLastError => obtain ⟨rfl, rfl⟩ := formatF0_ok h; exact ⟨rfl, rfl⟩
  | setPixel => obtain ⟨_, _, _, rfl, rfl⟩ := formatFP_ok h; exact ⟨rfl, rfl⟩
  | getPixel => obtain ⟨_, _, rfl, rfl⟩ := formatFQ_ok h; exact ⟨rfl, rfl⟩
  | drawLine => obtain ⟨_, _, _, _, _, rfl, rfl⟩ := formatFLR_ok h; exact ⟨rfl, rfl⟩
  | drawRect => obtain ⟨_, _, _, _, _, rfl, rfl⟩ := formatFLR_ok h; exact ⟨rfl, rfl⟩
  | drawFilledRect => obtain ⟨_, _, _, _, _, rfl, rfl⟩ := formatFLR_ok h; exact ⟨rfl, rfl⟩
  | drawCircle => obtain ⟨_, _, _, _, rfl, rfl⟩ := formatFC_ok h; exact ⟨rfl, rfl⟩
  | setCursor => obtain ⟨_, _, rfl, rfl⟩ := formatFQ_ok h; exact ⟨rfl, rfl⟩
  | getCursor => obtain ⟨rfl, rfl⟩ := formatF0_ok h; exact ⟨rfl, rfl⟩
  | drawGlyph => obtain ⟨_, _, rfl, rfl⟩ := formatFG_ok h; exact ⟨rfl, rfl⟩
  | drawString => obtain ⟨_, _, _, _, hlen, rfl, rfl⟩ := formatFS_ok h; exact ⟨decide_eq_true hlen, rfl⟩

/-- The decoder accepts a packet only as the packet of a well-formed command (30_encoding.md R69). -/
theorem decode_ok {p : List Byte} {i : Instr} (h : decode p = .ok i) : i.wellFormed = true ∧ encode i = p := by
  unfold decode at h
  split at h
  · cases h
  · rename_i b args
    split at h
    · cases h
    · rename_i row hrow
      obtain ⟨hmem, rfl⟩ := opRow_some hrow
      rw [opcodeMap_code row hmem]
      exact decodeOperands_ok h

/-- The packet obeys a row of the packet table: its opcode, its length, and `on` at most 0x01 where it has one. -/
def FollowsRow (p : List Byte) (row : Nat × Nat × Option Nat) : Prop :=
  row ∈ packetTable ∧ (p.getD 0 0).toNat = row.1 ∧ p.length = expectedLength p row ∧
    ∀ k, row.2.2 = some k → (p.getD k 0).toNat ≤ 1

theorem packetTable_opcodes_distinct :
    ∀ row ∈ packetTable, ∀ row' ∈ packetTable, row.1 = row'.1 → row = row' := by decide

theorem packetTable_length_pos : ∀ row ∈ packetTable, 0 < row.2.1 := by decide

theorem FollowsRow.not_illegal {p : List Byte} {row : Nat × Nat × Option Nat} (h : FollowsRow p row) :
    ¬ Illegal p := by
  obtain ⟨hmem, hop, hlen, hon⟩ := h
  rintro (rfl | hnone | ⟨row', hmem', hop', hbad⟩)
  · have := packetTable_length_pos row hmem
    simp only [List.length_nil, expectedLength] at hlen
    omega
  · exact hnone row hmem hop
  · obtain rfl := packetTable_opcodes_distinct row hmem row' hmem' (hop.symm.trans hop')
    rcases hbad with hlen' | ⟨k, hk, hlt⟩
    · exact hlen' hlen
    · have := hon k hk
      omega

theorem onByte_le_one (on : Bool) : (onByte on).toNat ≤ 1 := by cases on <;> decide

/-- A row without an `on` byte: nothing to check beside opcode and length. -/
theorem followsRow_of_no_on {p : List Byte} {op len : Nat} (hmem : (op, len, none) ∈ packetTable)
    (hop : (p.getD 0 0).toNat = op) (hlen : p.length = expectedLength p (op, len, none)) :
    FollowsRow p (op, len, none) :=
  ⟨hmem, hop, hlen, fun _ hk => nomatch hk⟩

theorem followsRow_of_on {p : List Byte} {op len k : Nat} {on : Bool} (hmem : (op, len, some k) ∈ packetTable)
    (hop : (p.getD 0 0).toNat = op) (hlen : p.length = expectedLength p (op, len, some k))
    (hon : p.getD k 0 = onByte on) : FollowsRow p (op, len, some k) := by
  refine ⟨hmem, hop, hlen, ?_⟩
  rintro _ ⟨⟩
  rw [hon]
  exact onByte_le_one on

theorem encode_followsRow {i : Instr} (hw : i.wellFormed = true) : ∃ row, FollowsRow (encode i) row := by
  cases i with
  | nop => exact ⟨_, followsRow_of_no_on (op := 0x00) (len := 1) (by decide) rfl rfl⟩
  | bindTransport => exact ⟨_, followsRow_of_no_on (op := 0x01) (len := 6) (by decide) rfl rfl⟩
  | init => exact ⟨_, followsRow_of_no_on (op := 0x02) (len := 1) (by decide) rfl rfl⟩
  | clear => exact ⟨_, followsRow_of_no_on (op := 0x03) (len := 1) (by decide) rfl rfl⟩
  | flush => exact ⟨_, followsRow_of_no_on (op := 0x04) (len := 1) (by decide) rfl rfl⟩
  | getLastError => exact ⟨_, followsRow_of_no_on (op := 0x05) (len := 1) (by decide) rfl rfl⟩
  | setPixel => exact ⟨_, followsRow_of_on (op := 0x10) (len := 6) (k := 5) (by decide) rfl rfl rfl⟩
  | getPixel => exact ⟨_, followsRow_of_no_on (op := 0x11) (len := 5) (by decide) rfl rfl⟩
  | drawLine => exact ⟨_, followsRow_of_on (op := 0x20) (len := 10) (k := 9) (by decide) rfl rfl rfl⟩
  | drawRect => exact ⟨_, followsRow_of_on (op := 0x21) (len := 10) (k := 9) (by decide) rfl rfl rfl⟩
  | drawFilledRect => exact ⟨_, followsRow_of_on (op := 0x22) (len := 10) (k := 9) (by decide) rfl rfl rfl⟩
  | drawCircle => exact ⟨_, followsRow_of_on (op := 0x23) (len := 8) (k := 7) (by decide) rfl rfl rfl⟩
  | setCursor => exact ⟨_, followsRow_of_no_on (op := 0x30) (len := 5) (by decide) rfl rfl⟩
  | getCursor => exact ⟨_, followsRow_of_no_on (op := 0x31) (len := 1) (by decide) rfl rfl⟩
  | drawGlyph => exact ⟨_, followsRow_of_no_on (op := 0x32) (len := 3) (by decide) rfl rfl⟩
  | drawString scale x y chars =>
    have hlen : chars.length ≤ 255 := of_decide_eq_true hw
    have hcount : (BitVec.ofNat 8 chars.length).toNat = chars.length := Nat.mod_eq_of_lt (by omega)
    have hlength : chars.length + 7 = 7 + (BitVec.ofNat 8 chars.length).toNat := by omega
    exact ⟨_, followsRow_of_no_on (op := 0x33) (len := 7) (by decide) rfl hlength⟩

/-- An illegal packet (30_encoding.md R66) is refused by the decoder. -/
theorem decode_error_of_illegal {p : List Byte} (h : Illegal p) : ∃ e, decode p = .error e := by
  cases hd : decode p with
  | error e => exact ⟨e, rfl⟩
  | ok i =>
    obtain ⟨hw, rfl⟩ := decode_ok hd
    obtain ⟨_, hrow⟩ := encode_followsRow hw
    exact absurd h hrow.not_illegal

end Sys2Proof
end

section
/-! The statements about the state: what the invariant, the frames of the registers and the reports come to. -/
namespace Sys2Proof.Machine
open Sys2Proof.Claims

/-! ## What each register keeps -/

/-- Which registers a command leaves alone, and what no command touches (10_state.md R25, R27 to R29). -/
theorem exec_frame {i : Instr} {s t : State} (he : exec i s = .next t) :
    (writesFb i = false → t.fb = s.fb) ∧
    (writesCursor i = false → t.cursorX = s.cursorX ∧ t.cursorY = s.cursorY) ∧
    (writesBinding i = false → t.bind = s.bind) ∧
    t.inbox = s.inbox ∧ t.cfg = s.cfg ∧ t.resets = s.resets := by
  cases ends_of_exec he with
  | completes hw _ _ =>
    exact ⟨hw.fb_eq, hw.cursor_eq, fun hi => (hw.binding_eq hi).1, hw.inbox_eq, hw.cfg_eq, hw.resets_eq⟩
  | readsLastError _ => exact ⟨fun _ => rfl, fun _ => ⟨rfl, rfl⟩, fun _ => rfl, rfl, rfl, rfl⟩
  | @streams u k bs hw _ _ =>
    obtain ⟨_, hx, hy, hbind, hfb, hinbox, hcfg, hresets⟩ := runStream_keeps k bs u
    rw [hx, hy, hbind, hfb, hinbox, hcfg, hresets]
    exact ⟨hw.fb_eq, hw.cursor_eq, fun hi => (hw.binding_eq hi).1, hw.inbox_eq, hw.cfg_eq, hw.resets_eq⟩

theorem step_cfg {s t : State} (hstep : step s = .next t) : t.cfg = s.cfg := by
  rcases next_of_step hstep with rfl | rfl | rfl | rfl | ⟨i, he⟩
  · obtain ⟨_, _, _, _, _, _, hcfg, _⟩ := resumeSend_keeps s
    exact hcfg
  · rfl
  · rfl
  · rfl
  · obtain ⟨_, _, _, _, hcfg, _⟩ := exec_frame he
    exact hcfg

/-! ## Reports -/

theorem instr_ne_getLastError (k : StreamCommand) : k.instr ≠ .getLastError := by
  cases k <;> simp [StreamCommand.instr]

/-- A command that is over has delivered one response, and left its code in LAST_ERROR unless it is GET_LAST_ERROR
(10_state.md R26). -/
theorem exec_reports {i : Instr} {s t : State} (he : exec i s = .next t) (hb : t.busy = false) :
    ∃ code data, t.responses = s.responses ++ [{ code := code, data := data }] ∧
      (i ≠ .getLastError → t.lastError = code) ∧ (i = .getLastError → t.lastError = s.lastError) := by
  cases ends_of_exec he with
  | @completes u code data hw hi _ =>
    exact ⟨code, data, by simp [hw.responses_eq], fun _ => rfl, fun h => absurd h hi⟩
  | readsLastError hi => exact ⟨.ok, [s.lastError.toByte], rfl, fun h => absurd hi h, fun _ => rfl⟩
  | streams hw hk _ =>
    obtain ⟨code, _, hresp, hlast⟩ := runStream_ended hb
    exact ⟨code, [], by rw [hresp, hw.responses_eq], fun _ => hlast,
      fun hi => absurd (hk.trans hi) (instr_ne_getLastError _)⟩

/-- From BUSY = 1, the next step is the held command's stream, or nothing where none is held. -/
theorem step_of_busy {s t : State} (hb : s.busy = true) (hstep : step s = .next t) : t = resumeSend s := by
  simpa [step, fetch, hb] using hstep.symm

theorem resumeSend_reports {s : State} (hs : s.busy = true) (hb : (resumeSend s).busy = false) :
    ∃ code data, (resumeSend s).responses = s.responses ++ [{ code := code, data := data }] ∧
      (resumeSend s).lastError = code := by
  unfold resumeSend at hb ⊢
  split at hb
  · obtain ⟨code, _, hresp, hlast⟩ := runStream_ended hb
    exact ⟨code, [], hresp, hlast⟩
  · simp [hs] at hb

theorem step_illegal {s : State} {p : List Byte} {rest : List HostEvent} (hp : Illegal p) (hb : s.busy = false)
    (hi : s.inbox = .packet p :: rest) : step s = .next (rejectPacket (acceptPacket s)) := by
  obtain ⟨e, he⟩ := decode_error_of_illegal hp
  simp [step, fetch, hb, hi, he]

/-! ## STATUS -/

/-- The descriptor check of the model is 43_controller.md R137. -/
theorem validDescriptor_iff (c : Config) (cs clk din dc rst : Byte) :
    validDescriptor c cs clk din dc rst = true ↔ GoodDescriptor c cs clk din dc rst := by
  unfold validDescriptor GoodDescriptor presentLines u8
  rw [decide_eq_true_iff]
  by_cases h : rst = 0xFF
  · rw [if_pos h]
    simp only [h, List.append_nil, List.mem_cons, List.not_mem_nil, or_false, forall_eq_or_imp, forall_eq,
      List.nodup_cons, List.nodup_nil, not_or, not_false_eq_true, and_true, true_or, ne_eq, not_true_eq_false,
      IsEmpty.forall_iff, true_and]
    tauto
  · rw [if_neg h]
    simp only [h, List.cons_append, List.nil_append, List.mem_cons, List.not_mem_nil, or_false, forall_eq_or_imp,
      forall_eq', List.nodup_cons, List.nodup_nil, not_or, not_false_eq_true, and_true, false_or, ne_eq,
      eq_comm (b := rst), forall_const]
    tauto

/-- BIND_TRANSPORT moves STATUS exactly where its descriptor is valid (43_controller.md R131). -/
theorem exec_bindTransport_status {s t : State} {cs clk din dc rst : Byte}
    (he : exec (.bindTransport cs clk din dc rst) s = .next t) :
    (GoodDescriptor s.cfg cs clk din dc rst → t.status = .portsBound) ∧
    (¬ GoodDescriptor s.cfg cs clk din dc rst → t.status = s.status) := by
  change execBindTransport cs clk din dc rst s = .next t at he
  unfold execBindTransport at he
  split at he <;> cases he
  · rename_i hv
    exact ⟨fun _ => rfl, fun hbad => absurd ((validDescriptor_iff ..).1 hv) hbad⟩
  · rename_i hv
    exact ⟨fun hgood => absurd ((validDescriptor_iff ..).2 hgood) hv, fun _ => rfl⟩

/-- INIT moves STATUS exactly where it could start and ended with OK (43_controller.md R132). -/
theorem exec_init_status {s t : State} (he : exec .init s = .next t) :
    t.status =
      if s.status ≠ .uninitialized ∧ t.busy = false ∧ t.lastError = .ok then .initialized else s.status := by
  change execInit s = .next t at he
  unfold execInit at he
  split at he
  · rename_i hs
    cases he
    simp [hs]
  · rename_i hs
    cases he
    simpa [hs] using runStream_status .init _ s

theorem resumeSend_of_held {s : State} {w : InFlight} (hw : s.inFlight = some w) :
    resumeSend s = runStream w.command w.pending s := by
  simp [resumeSend, hw]

/-- A command other than BIND_TRANSPORT and INIT leaves STATUS (10_state.md R23). -/
theorem exec_status {i : Instr} {s t : State} (hb : writesBinding i = false) (hi : i ≠ .init)
    (he : exec i s = .next t) : t.status = s.status := by
  cases ends_of_exec he with
  | completes hw _ _ => exact (hw.binding_eq hb).2
  | readsLastError _ => rfl
  | @streams u k bs hw hk _ =>
    have hne : k ≠ .init := by
      rintro rfl
      exact hi hk.symm
    rw [runStream_status, if_neg (fun h => hne h.1), (hw.binding_eq hb).2]

end Sys2Proof.Machine

namespace Sys2Proof.Proofs
open Sys2Proof.Machine

/-- Settles O14: the register writes keep the invariant of the released state, and so does each way a command ends. -/
theorem stepKeepsTheInvariant : Obligations.StepKeepsTheInvariant :=
  fun _ _ h hstep => step_inv h hstep

/-- Settles O6: a command that completes reports its code, and so does a stream that is over. -/
theorem lastErrorIsTheResponsesCode : Obligations.LastErrorIsTheResponsesCode := by
  refine ⟨fun i s t he hb => exec_reports he hb, fun s t hs hstep hb => ?_, fun s p rest hp hb hi => ?_⟩
  · obtain rfl := step_of_busy hs hstep
    exact resumeSend_reports hs hb
  · exact ⟨_, step_illegal hp hb hi, rfl, rfl⟩

/-- Settles O10, by the command: BIND_TRANSPORT's two branches, INIT's stream, and no write of STATUS in the others. -/
theorem statusMovesOnlyByBindAndInit : Obligations.StatusMovesOnlyByBindAndInit := by
  unfold Obligations.StatusMovesOnlyByBindAndInit
  refine ⟨fun i s t he => ?_, fun s t w hs hw hstep => ?_⟩
  · cases i with
    | bindTransport cs clk din dc rst => exact exec_bindTransport_status he
    | init => exact exec_init_status he
    | _ => exact exec_status rfl (by simp) he
  · obtain rfl := step_of_busy hs hstep
    rw [resumeSend_of_held hw]
    exact runStream_status w.command w.pending s

/-- Settles O12, by the frame of the register writes and of the streams run over them. -/
theorem eachRegisterHasItsWritersOnly : Obligations.EachRegisterHasItsWritersOnly :=
  fun _ _ _ he => exec_frame he

/-- Settles O13, by the kinds of step: no command and no stream writes the parameters, and the reset event keeps them. -/
theorem stepsKeepGlyphRomAndParameters : Obligations.StepsKeepGlyphRomAndParameters :=
  fun _ _ hstep => step_cfg hstep

/-- Settles O15, field by field for any parameters; the fixture's are within their bounds. -/
theorem resetMeetsTheInvariant : Obligations.ResetMeetsTheInvariant :=
  ⟨fun _ n inbox answers draws hc => resetWith_inv hc n inbox answers draws,
    resetWith_inv (by decide : Config.fixture.wf) 0 [] [] 0⟩

/-- Settles O16: the step is the reset event's, and an FB with no byte listed reads as the new reset's free values. -/
theorem resetEventRestoresResetValues : Obligations.ResetEventRestoresResetValues := by
  intro s rest hb hi
  have hstep : step s = .next (applyReset s) := by simp [step, fetch, hb, hi]
  exact ⟨_, hstep, rfl, rfl, rfl, rfl, rfl, rfl, rfl, rfl, rfl, by simp [hi], rfl, rfl, fun _ => rfl⟩

end Sys2Proof.Proofs
end

section
/-! FB and what was sent of it: a stream that ends with OK has sent FB as its data bytes (20_memory.md R54). -/
namespace Sys2Proof.Machine
open Sys2Proof.Claims

/-- Of the bytes a stream sends, HOME_SEQ is control and FB is data (43_controller.md R136). -/
theorem dataValues_streamBytes (s : State) :
    (((streamBytes s).map (·.record .ok)).filter (·.isData)).map (·.value) = buffer s := by
  have hcontrol (bs : List Byte) : ((controlBytes bs).map (·.record .ok)).filter (·.isData) = [] := by
    simp [controlBytes, OutByte.record]
  have hdata (bs : List Byte) :
      (((dataBytes bs).map (·.record .ok)).filter (·.isData)).map (·.value) = bs := by
    simp [dataBytes, OutByte.record, List.filter_map, Function.comp_def]
  rw [streamBytes, List.map_append, List.filter_append, hcontrol, List.nil_append, hdata]
  rfl

/-- A stream that is over with OK sent every byte, each answered ok (43_controller.md R136). -/
theorem runStream_tx_of_ok {k : StreamCommand} {bs : List OutByte} {s : State}
    (hb : (runStream k bs s).busy = false) (hok : (runStream k bs s).lastError = .ok) :
    (runStream k bs s).tx = s.tx ++ bs.map (·.record .ok) := by
  rcases runStream_cases k bs s with ⟨hdone, heq⟩ | ⟨_, heq⟩ | ⟨_, _, heq⟩ <;> rw [heq] at hb hok ⊢
  · have htx : (sendAll bs s).1.tx = s.tx ++ bs.map (·.record .ok) := by
      rcases sendAll_cases bs s with ⟨_, htx⟩ | ⟨_, _, _, _, hend, _⟩ | ⟨_, _, _, _, hend, _⟩
      · exact htx
      · simp [hdone] at hend
      · simp [hdone] at hend
    cases k <;> exact htx
  · simp at hok
  · simp at hb

theorem buffer_runStream (k : StreamCommand) (bs : List OutByte) (s : State) :
    buffer (runStream k bs s) = buffer s := by
  obtain ⟨_, _, _, _, hfb, _, hcfg, hresets⟩ := runStream_keeps k bs s
  unfold buffer
  rw [hcfg]
  exact List.map_congr_left fun i _ => memRead_congr hfb hresets i

/-- A command with the lifecycle check that ends with OK passed the check (60_exceptions.md R155). -/
theorem eq_of_requireInitialized_of_ok {m : Nat} {s u t : State} (h : requireInitialized m s (.next u) = .next t)
    (hok : t.lastError = .ok) : t = u := by
  rcases requireInitialized_cases m s (.next u) with ⟨_, heq⟩ | ⟨_, heq⟩ <;> rw [heq] at h <;> cases h
  · rfl
  · simp at hok

/-- CLEAR and FLUSH that end with OK are the STREAM of the state they run it in, with TX as it was
(43_controller.md R133, R134). -/
theorem exec_clear_or_flush_of_ok {i : Instr} {s t : State} (hi : i = .clear ∨ i = .flush)
    (he : exec i s = .next t) (hok : t.lastError = .ok) :
    ∃ k u, u.tx = s.tx ∧ t = runStream k (streamBytes u) u := by
  rcases hi with rfl | rfl
  · exact ⟨.clear, blank s, by rw [blank_eq], eq_of_requireInitialized_of_ok he hok⟩
  · exact ⟨.flush, s, rfl, eq_of_requireInitialized_of_ok he hok⟩

end Sys2Proof.Machine
end

section
/-! FB and the pixels: a bit of FB that is no pixel's is written by CLEAR alone, and so are the padding bits of the last
page (20_memory.md R47, 40_pixel.md R80, R81). -/
namespace Sys2Proof.Machine

/-- Bit `b` of byte `i` of FB is the bit of a pixel inside the buffer (40_pixel.md R80, R81). -/
def IsPixelBit (c : Config) (i b : Nat) : Prop := ∃ p, inRange c p = true ∧ pixelIndex c p = i ∧ pixelBit p = b

/-- In the last page, the bits of the rows at or below FB_H are no pixel's (20_memory.md R47). -/
theorem not_isPixelBit_padding {c : Config} {i b : Nat} (hi : (c.pages - 1) * c.fbW ≤ i)
    (hb : c.fbH - 8 * (c.pages - 1) ≤ b) : ¬ IsPixelBit c i b := by
  rintro ⟨p, hp, rfl, rfl⟩
  obtain ⟨hx0, hx1, hy0, hy1⟩ := (inRange_iff c p).1 hp
  have hpage : c.pages - 1 ≤ p.2.toNat / 8 := by
    have hlt : (c.pages - 1) * c.fbW < (p.2.toNat / 8 + 1) * c.fbW := by
      rw [Nat.succ_mul]
      unfold pixelIndex at hi
      omega
    exact Nat.le_of_lt_succ (lt_of_mul_lt_mul_right hlt (Nat.zero_le _))
  unfold pixelBit at hb
  omega

theorem plotAll_getLsbD_of_not_isPixelBit {r : Run} {i b : Nat} (h : ¬ IsPixelBit r.state.cfg i b) (on : Bool)
    (ps : List Point) : ((plotAll on r ps).state.memRead i).getLsbD b = (r.state.memRead i).getLsbD b := by
  rw [getLsbD_memRead_plotAll, if_neg]
  rintro ⟨p, _, hp⟩
  exact h ⟨p, hp⟩

theorem renderChar_getLsbD_of_not_isPixelBit {r : Run} {i b : Nat} (h : ¬ IsPixelBit r.state.cfg i b)
    (scale code : Byte) : ((renderChar scale r code).state.memRead i).getLsbD b = (r.state.memRead i).getLsbD b := by
  unfold renderChar
  split
  · rw [← plotAll_getLsbD_of_not_isPixelBit h true (blitPoints r.state code scale)]
    exact congrArg (BitVec.getLsbD · b) (memRead_congr (advance_fb _ _) (advance_resets _ _) i)
  · rfl

theorem renderChars_getLsbD_of_not_isPixelBit {r : Run} {i b : Nat} (h : ¬ IsPixelBit r.state.cfg i b)
    (scale : Byte) (chars : List Byte) :
    ((chars.foldl (renderChar scale) r).state.memRead i).getLsbD b = (r.state.memRead i).getLsbD b := by
  induction chars generalizing r with
  | nil => rfl
  | cons c cs ih =>
    have hcfg : (renderChar scale r c).state.cfg = r.state.cfg := by rw [renderChar_state]
    rw [List.foldl_cons, ih (hcfg ▸ h), renderChar_getLsbD_of_not_isPixelBit h]

theorem Written.getLsbD_of_not_isPixelBit {s u : State} {i : Instr} (hw : Written s i u) (hi : i ≠ .clear) {k b : Nat}
    (h : ¬ IsPixelBit s.cfg k b) : (u.memRead k).getLsbD b = (s.memRead k).getLsbD b := by
  cases hw with
  | nothing => rfl
  | binding _ => rfl
  | blanked => exact absurd rfl hi
  | plots _ => exact plotAll_getLsbD_of_not_isPixelBit (r := startRun s) h _ _
  | cursor _ => rfl
  | glyph => exact renderChar_getLsbD_of_not_isPixelBit (r := startRun s) h _ _
  | string _ => exact renderChars_getLsbD_of_not_isPixelBit (r := startRun (s.setCursor _ _)) h _ _

/-- No command but CLEAR changes a bit of FB that is no pixel's (40_pixel.md R81, R82). -/
theorem exec_getLsbD_of_not_isPixelBit {i : Instr} {s t : State} (he : exec i s = .next t) (hi : i ≠ .clear)
    {k b : Nat} (h : ¬ IsPixelBit s.cfg k b) : (t.memRead k).getLsbD b = (s.memRead k).getLsbD b := by
  cases ends_of_exec he with
  | completes hw _ _ => exact hw.getLsbD_of_not_isPixelBit hi h
  | readsLastError _ => rfl
  | @streams u c bs hw _ _ =>
    obtain ⟨_, _, _, _, hfb, _, _, hresets⟩ := runStream_keeps c bs u
    rw [memRead_congr hfb hresets]
    exact hw.getLsbD_of_not_isPixelBit hi h

end Sys2Proof.Machine

namespace Sys2Proof.Proofs
open Sys2Proof.Machine

/-- Settles O30: such a command is a stream that sent every byte it had, and the stream left FB alone. -/
theorem displayMirrorsBufferAfterOk : Obligations.DisplayMirrorsBufferAfterOk := by
  intro i s t hi he hb hok
  obtain ⟨k, u, hu, rfl⟩ := exec_clear_or_flush_of_ok hi he hok
  refine ⟨(streamBytes u).map (·.record .ok), by rw [runStream_tx_of_ok hb hok, hu], ?_, ?_⟩
  · intro r hr
    obtain ⟨b, _, rfl⟩ := List.mem_map.1 hr
    rfl
  · rw [buffer_runStream, dataValues_streamBytes]

/-- Settles O56: a padding bit is no pixel's, and only CLEAR writes a bit that is no pixel's. -/
theorem onlyClearWritesPaddingBits : Obligations.OnlyClearWritesPaddingBits :=
  fun _ _ _ he hi _ _ hk _ hb => exec_getLsbD_of_not_isPixelBit he hi (not_isPixelBit_padding hk hb)

end Sys2Proof.Proofs
end

section
/-! Packets, from the command: the decoder reads back what the encoder writes, and refuses only illegal packets
(30_encoding.md R62 to R66, R69). -/
namespace Sys2Proof
open Sys2Proof.Claims

/-! ## What each format reads back from encoded fields -/

@[simp] theorem formatFP_encoded (k : Half → Half → Bool → Instr) (x y : Half) (on : Bool) :
    formatFP k [lo8 x, hi8 x, lo8 y, hi8 y, onByte on] = .ok (k x y on) := by
  simp [formatFP]

@[simp] theorem formatFQ_encoded (k : Half → Half → Instr) (x y : Half) :
    formatFQ k [lo8 x, hi8 x, lo8 y, hi8 y] = .ok (k x y) := by
  simp [formatFQ]

@[simp] theorem formatFLR_encoded (k : Half → Half → Half → Half → Bool → Instr) (a b c d : Half) (on : Bool) :
    formatFLR k [lo8 a, hi8 a, lo8 b, hi8 b, lo8 c, hi8 c, lo8 d, hi8 d, onByte on] = .ok (k a b c d on) := by
  simp [formatFLR]

@[simp] theorem formatFC_encoded (k : Half → Half → Half → Bool → Instr) (a b c : Half) (on : Bool) :
    formatFC k [lo8 a, hi8 a, lo8 b, hi8 b, lo8 c, hi8 c, onByte on] = .ok (k a b c on) := by
  simp [formatFC]

/-- The length byte counts the characters as long as they fit a u8 (R62). -/
theorem formatFS_encoded (k : Byte → Half → Half → List Byte → Instr) (scale : Byte) (x y : Half)
    {chars : List Byte} (hlen : chars.length ≤ 255) :
    formatFS k (scale :: lo8 x :: hi8 x :: lo8 y :: hi8 y :: BitVec.ofNat 8 chars.length :: chars) =
      .ok (k scale x y chars) := by
  have hcount : chars.length = (BitVec.ofNat 8 chars.length).toNat := (Nat.mod_eq_of_lt (by omega)).symm
  simp [formatFS, ← hcount]

/-! ## The round trip from a command -/

/-- An assigned opcode byte selects its own command's operands (R63). -/
theorem decode_code_cons (op : Op) (args : List Byte) : decode (op.code :: args) = decodeOperands op args := by
  cases op <;> rfl

/-- The packet of a command is its opcode byte and its operand bytes. -/
theorem encode_eq_code_cons (i : Instr) : encode i = (opOf i).code :: (encode i).tail := by
  cases i <;> rfl

theorem decodeOperands_encode_tail {i : Instr} (hw : i.wellFormed = true) :
    decodeOperands (opOf i) (encode i).tail = .ok i := by
  cases i with
  | nop | init | clear | flush | getLastError | getCursor => rfl
  | bindTransport _ _ _ _ _ => rfl
  | setPixel x y on => exact formatFP_encoded .setPixel x y on
  | getPixel x y => exact formatFQ_encoded .getPixel x y
  | drawLine x1 y1 x2 y2 on => exact formatFLR_encoded .drawLine x1 y1 x2 y2 on
  | drawRect x y w h on => exact formatFLR_encoded .drawRect x y w h on
  | drawFilledRect x y w h on => exact formatFLR_encoded .drawFilledRect x y w h on
  | drawCircle cx cy r on => exact formatFC_encoded .drawCircle cx cy r on
  | setCursor x y => exact formatFQ_encoded .setCursor x y
  | drawGlyph _ _ => rfl
  | drawString scale x y chars => exact formatFS_encoded .drawString scale x y (of_decide_eq_true hw)

theorem decode_encode {i : Instr} (hw : i.wellFormed = true) : decode (encode i) = .ok i := by
  rw [encode_eq_code_cons, decode_code_cons, decodeOperands_encode_tail hw]

/-! ## What the decoder refuses is illegal -/

/-- The packet table has no opcode that the opcode map has not. -/
theorem packetTable_opcode_mem_opcodeMap :
    ∀ row ∈ packetTable, ∃ r ∈ opcodeMap, r.code.toNat = row.1 := by decide

theorem illegal_of_opRow_none {b : Byte} (h : opRow b = none) (args : List Byte) : Illegal (b :: args) := by
  refine .inr (.inl fun row hrow hop => ?_)
  obtain ⟨r, hr, hcode⟩ := packetTable_opcode_mem_opcodeMap row hrow
  exact opRow_none h r hr (BitVec.eq_of_toNat_eq (hcode.trans hop.symm))

/-- Operand bytes of another number than the row's fixed one. -/
theorem illegal_of_length {b : Byte} {args : List Byte} {n : Nat} {on : Option Nat}
    (hmem : (b.toNat, n + 1, on) ∈ packetTable) (hfixed : b.toNat ≠ 0x33) (hlen : args.length ≠ n) :
    Illegal (b :: args) :=
  .inr (.inr ⟨_, hmem, rfl, .inl (by simpa [expectedLength, hfixed] using hlen)⟩)

/-- The same for a row whose last byte is `on`, or a reserved value in that byte (R65). -/
theorem illegal_of_length_or_on {b : Byte} {args : List Byte} {n : Nat}
    (hmem : (b.toNat, n + 2, some (n + 1)) ∈ packetTable) (hfixed : b.toNat ≠ 0x33)
    (hbad : args.length ≠ n + 1 ∨ 1 < (args.getD n 0).toNat) : Illegal (b :: args) := by
  rcases hbad with hlen | hon
  · exact illegal_of_length hmem hfixed hlen
  · exact .inr (.inr ⟨_, hmem, rfl, .inr ⟨n + 1, rfl, hon⟩⟩)

/-- A string packet whose length is not what its length byte says (R64). -/
theorem illegal_of_string_length {args : List Byte} (hlen : args.length ≠ 6 + (args.getD 5 0).toNat) :
    Illegal (0x33 :: args) := by
  refine .inr (.inr ⟨(0x33, 7, none), by decide, rfl, .inl ?_⟩)
  simp only [expectedLength, List.length_cons, List.getD_cons_succ, if_true]
  omega

/-- Operand bytes that the format refuses make the packet illegal. -/
theorem illegal_of_decodeOperands_error {op : Op} {args : List Byte} {e : DecodeError}
    (h : decodeOperands op args = .error e) : Illegal (op.code :: args) := by
  cases op with
  | nop | init | clear | flush | getLastError | getCursor =>
    exact illegal_of_length (on := none) (by decide) (by decide) (formatF0_error h)
  | bindTransport => exact illegal_of_length (on := none) (by decide) (by decide) (formatFB_error h)
  | getPixel | setCursor => exact illegal_of_length (on := none) (by decide) (by decide) (formatFQ_error h)
  | drawGlyph => exact illegal_of_length (on := none) (by decide) (by decide) (formatFG_error h)
  | setPixel => exact illegal_of_length_or_on (by decide) (by decide) (formatFP_error h)
  | drawLine | drawRect | drawFilledRect =>
    exact illegal_of_length_or_on (by decide) (by decide) (formatFLR_error h)
  | drawCircle => exact illegal_of_length_or_on (by decide) (by decide) (formatFC_error h)
  | drawString => exact illegal_of_string_length (formatFS_error h)

theorem illegal_of_decode_error {p : List Byte} {e : DecodeError} (h : decode p = .error e) : Illegal p := by
  cases p with
  | nil => exact .inl rfl
  | cons b args =>
    cases hrow : opRow b with
    | none => exact illegal_of_opRow_none hrow args
    | some row =>
      obtain ⟨hmem, rfl⟩ := opRow_some hrow
      rw [opcodeMap_code row hmem, decode_code_cons] at h
      rw [opcodeMap_code row hmem]
      exact illegal_of_decodeOperands_error h

/-- The decoder refuses exactly the illegal packets of R66. -/
theorem illegal_iff (p : List Byte) : Illegal p ↔ ∃ e, decode p = .error e :=
  ⟨decode_error_of_illegal, fun ⟨_, he⟩ => illegal_of_decode_error he⟩

end Sys2Proof
end

section
/-! Responses: one for each command that is over, none while it is held (30_encoding.md R68). -/
namespace Sys2Proof.Machine
open Sys2Proof.Claims

/-- A stream held in a Send has answered nothing yet (60_exceptions.md R159). -/
theorem runStream_held {k : StreamCommand} {bs : List OutByte} {s : State} (h : (runStream k bs s).busy = true) :
    (runStream k bs s).responses = s.responses := by
  rcases runStream_cases k bs s with ⟨_, heq⟩ | ⟨_, heq⟩ | ⟨_, _, heq⟩
  · simp [heq] at h
  · simp [heq] at h
  · rw [heq, holdBusy_responses, sendAll_state]

/-- The two codes a stream ends with are in the row of each command that sends, and it returns no data. -/
theorem reportable_of_stream (k : StreamCommand) {code : ResultCode} (hc : code ∈ [ResultCode.ok, .transportFailure]) :
    Reportable k.instr code [] := by
  have hrow : ∀ c ∈ [ResultCode.ok, .transportFailure], c ∈ mayReport k.instr := by cases k <;> decide
  exact ⟨hrow code hc, by cases k <;> rfl, fun _ _ hb => nomatch hb⟩

/-- A command that is over has delivered one response, with a code of its row and data of its length. -/
theorem exec_reportable {i : Instr} {s t : State} (he : exec i s = .next t) (hb : t.busy = false) :
    ∃ code data, t.responses = s.responses ++ [{ code := code, data := data }] ∧ Reportable i code data := by
  cases ends_of_exec he with
  | @completes _ code data hw _ hr => exact ⟨code, data, by simp [hw.responses_eq], hr⟩
  | readsLastError hi =>
    subst hi
    exact ⟨.ok, [s.lastError.toByte], rfl, .ok (by decide) rfl⟩
  | streams hw hk _ =>
    subst hk
    obtain ⟨code, hc, hresp, _⟩ := runStream_ended hb
    exact ⟨code, [], by rw [hresp, hw.responses_eq], reportable_of_stream _ hc⟩

/-- A command held in a Send has answered nothing yet. -/
theorem exec_held {i : Instr} {s t : State} (he : exec i s = .next t) (hb : t.busy = true) :
    t.responses = s.responses := by
  cases ends_of_exec he with
  | completes _ _ _ => simp at hb
  | readsLastError _ => simp at hb
  | streams hw _ _ => rw [runStream_held hb, hw.responses_eq]

/-- All that an illegal packet does, the taking of it from the port included (30_encoding.md R66). -/
theorem step_illegal_reported {s : State} {p : List Byte} {rest : List HostEvent} (hp : Illegal p)
    (hb : s.busy = false) (hi : s.inbox = .packet p :: rest) :
    step s = .next { reported .illegalCommand [] s with inbox := rest } := by
  obtain rfl : s.inbox.tail = rest := by rw [hi, List.tail_cons]
  exact step_illegal hp hb hi

end Sys2Proof.Machine

namespace Sys2Proof.Proofs
open Sys2Proof.Machine

/-- Settles O1, by the command: each format reads back the fields the encoder wrote. -/
theorem encodedCommandDecodesToItself : Obligations.EncodedCommandDecodesToItself :=
  fun _ hw => decode_encode hw

/-- Settles O2, by the opcode row the decoder found and by what its format accepts. -/
theorem decodedPacketIsThatCommandsPacket : Obligations.DecodedPacketIsThatCommandsPacket :=
  fun _ _ hd => decode_ok hd

/-- Settles O3: what a format refuses breaks its row of the packet table, and what decodes follows its row. -/
theorem illegalPacketOnlyReportsIllegalCommand : Obligations.IllegalPacketOnlyReportsIllegalCommand :=
  ⟨illegal_iff, fun _ _ _ hp hb hi => step_illegal_reported hp hb hi⟩

/-- Settles O7, by the three ways a command ends: reported, GET_LAST_ERROR's own response, or a stream. -/
theorem oneResponseOfFixedLength : Obligations.OneResponseOfFixedLength := by
  refine fun i s t he => ⟨fun hb => ?_, exec_held he⟩
  obtain ⟨code, data, hresp, _, hlen, hzero⟩ := exec_reportable he hb
  exact ⟨⟨code, data⟩, hresp, hlen, hzero⟩

/-- Settles O4: the decoder evaluated on each of the sixteen packets. -/
theorem writtenOutPacketsDecode : Obligations.WrittenOutPacketsDecode :=
  ⟨rfl, rfl, rfl, rfl, rfl, rfl, rfl, rfl, rfl, rfl, rfl, rfl, rfl, rfl, rfl, rfl⟩

end Sys2Proof.Proofs
end

section
/-! The pixel engine's commands: what SET_PIXEL and GET_PIXEL end as in each of their checks, and the pixel they name
(40_pixel.md R80 to R84). -/
namespace Sys2Proof.Machine
open Sys2Proof.Claims

/-! ## The pixel's place -/

/-- R80's byte index over exact integers. -/
theorem pixelIndex_cast {c : Config} {p : Point} (h : inRange c p = true) :
    (pixelIndex c p : Int) = (p.2 / 8) * c.fbW + p.1 := by
  obtain ⟨hx, _, hy, _⟩ := (inRange_iff c p).1 h
  simp [pixelIndex, hx, hy]

/-- R80's bit index over exact integers. -/
theorem pixelBit_cast {c : Config} {p : Point} (h : inRange c p = true) : (pixelBit p : Int) = p.2 % 8 := by
  obtain ⟨_, _, hy, _⟩ := (inRange_iff c p).1 h
  simp [pixelBit, hy]

/-- The range check on a command's operands is the statements' word for it (R81). -/
theorem inRange_point_iff (c : Config) (x y : Half) : inRange c (point x y) = true ↔ Inside c x.toInt y.toInt :=
  inRange_iff c (point x y)

theorem not_inRange_point_iff (c : Config) (x y : Half) :
    inRange c (point x y) = false ↔ ¬ Inside c x.toInt y.toInt := by
  rw [← inRange_point_iff, Bool.not_eq_true]

/-! ## SET_PIXEL -/

theorem exec_setPixel_uninitialized (x y : Half) (on : Bool) {s : State} (hs : s.status ≠ .initialized) :
    exec (.setPixel x y on) s = .next (complete .notInitialized [] s) :=
  requireInitialized_of_ne hs

theorem exec_setPixel_outside {x y : Half} (on : Bool) {s : State} (hs : s.status = .initialized)
    (h : inRange s.cfg (point x y) = false) :
    exec (.setPixel x y on) s = .next (complete .invalidArgument [] s) := by
  show execSetPixel x y on s = _
  rw [execSetPixel, requireInitialized_of_eq hs, if_neg (by simp [h])]
  rfl

/-- Inside the buffer SET_PIXEL is one plot, which is not rejected. -/
theorem exec_setPixel_inside {x y : Half} (on : Bool) {s : State} (hs : s.status = .initialized)
    (h : inRange s.cfg (point x y) = true) :
    exec (.setPixel x y on) s = .next (complete .ok [] (plot on (startRun s) (point x y)).state) := by
  have hlatched : (plot on (startRun s) (point x y)).latched = false := by simp [plot_latched, startRun, h]
  show execSetPixel x y on s = _
  rw [execSetPixel, requireInitialized_of_eq hs, if_pos h, settle, hlatched]
  rfl

/-- A pixel inside the buffer has the value just plotted. -/
theorem pixel_plot_same (on : Bool) {r : Run} {p : Point} (h : inRange r.state.cfg p = true) :
    (plot on r p).state.pixel p = on := by
  simpa using pixel_plotAll on r [p] h

/-- SET_PIXEL leaves what the checks of a pixel command read, and the pixel it names has the value it wrote. -/
theorem exec_setPixel_writes_pixel {x y : Half} (on : Bool) {s : State} (hs : s.status = .initialized)
    (h : inRange s.cfg (point x y) = true) :
    ∃ t, exec (.setPixel x y on) s = .next t ∧ t.status = .initialized ∧ t.cfg = s.cfg ∧
      t.pixel (point x y) = on := by
  refine ⟨_, exec_setPixel_inside on hs h, ?_, ?_, pixel_plot_same on h⟩
  · rw [complete_status, plot_state]; exact hs
  · rw [complete_cfg, plot_cfg]; rfl

/-! ## GET_PIXEL -/

theorem exec_getPixel_uninitialized (x y : Half) {s : State} (hs : s.status ≠ .initialized) :
    exec (.getPixel x y) s = .next (complete .notInitialized [0x00] s) :=
  requireInitialized_of_ne hs

theorem exec_getPixel_outside {x y : Half} {s : State} (hs : s.status = .initialized)
    (h : inRange s.cfg (point x y) = false) :
    exec (.getPixel x y) s = .next (complete .invalidArgument [0x00] s) := by
  show execGetPixel x y s = _
  rw [execGetPixel, requireInitialized_of_eq hs, if_neg (by simp [h])]
  rfl

theorem exec_getPixel_inside {x y : Half} {s : State} (hs : s.status = .initialized)
    (h : inRange s.cfg (point x y) = true) :
    exec (.getPixel x y) s = .next (complete .ok [if s.pixel (point x y) then 0x01 else 0x00] s) := by
  show execGetPixel x y s = _
  rw [execGetPixel, requireInitialized_of_eq hs, if_pos h]
  rfl

/-! ## Lists of plots with the same points -/

/-- Where two states list the same bytes and read alike, the listed bytes are the same (log 3). -/
theorem byteAt_eq_of_listed {s t : State} {a : Nat} (hlisted : (s.fb.byteAt a).isSome = (t.fb.byteAt a).isSome)
    (hread : s.memRead a = t.memRead a) : s.fb.byteAt a = t.fb.byteAt a := by
  unfold State.memRead at hread
  cases hs : s.fb.byteAt a with
  | none =>
    have ht : t.fb.byteAt a = none := by simpa [hs] using hlisted.symm
    exact ht.symm
  | some v =>
    obtain ⟨w, ht⟩ : ∃ w, t.fb.byteAt a = some w := by simpa [hs, Option.isSome_iff_exists] using hlisted.symm
    rw [ht]
    simpa [hs, ht] using hread

section
variable {ps qs : List Point} (h : ∀ p, p ∈ ps ↔ p ∈ qs)
include h

theorem plotAll_latched_congr (on : Bool) (r : Run) : (plotAll on r ps).latched = (plotAll on r qs).latched := by
  simp only [plotAll_latched, List.any_eq, h]

theorem memRead_plotAll_congr (on : Bool) (r : Run) (i : Nat) :
    (plotAll on r ps).state.memRead i = (plotAll on r qs).state.memRead i := by
  apply BitVec.eq_of_getLsbD_eq
  intro b _
  simp only [getLsbD_memRead_plotAll, h]

theorem plotAll_listed_congr (on : Bool) (r : Run) (a : Nat) :
    ((plotAll on r ps).state.fb.byteAt a).isSome = ((plotAll on r qs).state.fb.byteAt a).isSome := by
  simp only [plotAll_listed, List.any_eq, h]

/-- FB in its canonical form is determined by which bytes are listed and how they read. -/
theorem plotAll_fb_congr (on : Bool) {r : Run} (hwf : r.state.fb.wf) :
    (plotAll on r ps).state.fb = (plotAll on r qs).state.fb :=
  Memory.wf_ext (plotAll_wf hwf ps) (plotAll_wf hwf qs) fun a =>
    byteAt_eq_of_listed (plotAll_listed_congr h on r a) (memRead_plotAll_congr h on r a)

theorem plotAll_congr (on : Bool) {r : Run} (hwf : r.state.fb.wf) : plotAll on r ps = plotAll on r qs := by
  have hstate : (plotAll on r ps).state = (plotAll on r qs).state := by
    rw [plotAll_state on r ps, plotAll_state on r qs, plotAll_fb_congr h on hwf]
  exact congrArg₂ Run.mk hstate (plotAll_latched_congr h on r)

end

end Sys2Proof.Machine

namespace Sys2Proof.Proofs
open Sys2Proof.Machine

/-- Settles O32: the packet by its format, each check by its equation, and inside the buffer the bits after one plot. -/
theorem setPixelWritesExactlyOneBit : Obligations.SetPixelWritesExactlyOneBit := by
  refine ⟨fun x0 x1 y0 y1 => ⟨rfl, rfl, fun v hv => ?_⟩, fun x y on s => ⟨?_, fun hs h => ?_, fun hs h => ?_⟩⟩
  · exact decode_error_of_illegal (illegal_of_length_or_on (n := 4) (by decide) (by decide) (.inr hv))
  · exact exec_setPixel_uninitialized x y on
  · exact exec_setPixel_outside on hs ((not_inRange_point_iff s.cfg x y).2 h)
  · have hin := (inRange_point_iff s.cfg x y).2 h
    refine ⟨_, exec_setPixel_inside on hs hin, ?_, fun i b => ?_⟩
    · rw [plot_state]; rfl
    · refine (getLsbD_memRead_plot on (startRun s) (point x y) i b).trans (if_congr ?_ rfl rfl)
      exact ⟨fun ⟨_, hi, hb⟩ => ⟨hi.symm, hb.symm⟩, fun ⟨hi, hb⟩ => ⟨hin, hi.symm, hb.symm⟩⟩

/-- Settles O33: the packet by its format, and each check by its equation. -/
theorem getPixelReturnsThePixel : Obligations.GetPixelReturnsThePixel := by
  refine ⟨fun x0 x1 y0 y1 => rfl, fun x y s => ⟨?_, fun hs h => ?_, fun hs h => ?_⟩⟩
  · exact exec_getPixel_uninitialized x y
  · exact exec_getPixel_inside hs ((inRange_point_iff s.cfg x y).2 h)
  · exact exec_getPixel_outside hs ((not_inRange_point_iff s.cfg x y).2 h)

/-- Settles O34: SET_PIXEL keeps STATUS and the parameters, so GET_PIXEL passes the same checks and reads the plot. -/
theorem pixelRoundTrip : Obligations.PixelRoundTrip := by
  intro x y on s hs h
  have hin := (inRange_point_iff s.cfg x y).2 h
  obtain ⟨t, ht, hstatus, hcfg, hpixel⟩ := exec_setPixel_writes_pixel on hs hin
  refine ⟨t, _, ht, exec_getPixel_inside hstatus (hcfg ▸ hin), ?_, rfl⟩
  rw [complete_responses, hpixel]

/-- Settles O35: the range check and R80's formulas, and two pixels of one bit are one pixel. -/
theorem pixelsAreDistinctBitsInsideTheBuffer : Obligations.PixelsAreDistinctBitsInsideTheBuffer :=
  fun c p _ => ⟨inRange_iff c p, fun h => ⟨pixelIndex_cast h, pixelBit_cast h, pixelIndex_lt h⟩, pixel_injective⟩

/-- Settles O36: the latched result, the listed bytes and what they read are each a function of the set of points. -/
theorem plotsDependOnTheirSetOnly : Obligations.PlotsDependOnTheirSetOnly :=
  fun on _ _ _ hwf h => plotAll_congr h on hwf

end Sys2Proof.Proofs
end

section
/-! LINE (41_raster.md R90): the loop with its error term is the segment rounded to the nearest pixel. The loop treats the
two coordinates alike, so it is enough to follow it on a segment at least as wide as high. -/
namespace Sys2Proof.Machine

/-! ## One pass of the loop -/

/-- The loop treats the coordinates alike, with the error term negated. -/
theorem lineLoop_swap (x2 y2 dx dy sx sy : Int) (n : Nat) (x y err : Int) :
    lineLoop y2 x2 dy dx sy sx n y x (-err) = (lineLoop x2 y2 dx dy sx sy n x y err).map Prod.swap := by
  induction n generalizing x y err with
  | zero => rfl
  | succ n ih =>
    have hx : 2 * -err < dy ↔ 2 * err > -dy := by omega
    have hy : 2 * -err > -dx ↔ 2 * err < dx := by omega
    by_cases hend : x = x2 ∧ y = y2
    · simp [lineLoop, hend]
    · have hend' : ¬ (y = y2 ∧ x = x2) := fun h => hend h.symm
      rw [lineLoop, lineLoop, if_neg hend, if_neg hend', List.map_cons, ← ih]
      simp only [hx, hy, Prod.swap_prod_mk]
      congr 2
      split_ifs <;> ring

theorem linePoints_swap (x1 y1 x2 y2 : Int) : linePoints y1 x1 y2 x2 = (linePoints x1 y1 x2 y2).map Prod.swap := by
  rw [linePoints, linePoints, ← lineLoop_swap, neg_sub, Nat.add_comm (y2 - y1).natAbs]

/-- The loop ends at the end point. -/
theorem lineLoop_end (x2 y2 dx dy sx sy : Int) (n : Nat) (err : Int) :
    lineLoop x2 y2 dx dy sx sy (n + 1) x2 y2 err = [(x2, y2)] := by
  simp [lineLoop]

/-- A pass whose x test fires. -/
theorem lineLoop_stepX {x2 y2 dx dy sx sy x y err : Int} (n : Nat) (hx : x ≠ x2) (he : -dy < 2 * err) :
    lineLoop x2 y2 dx dy sx sy (n + 1) x y err =
      (x, y) :: lineLoop x2 y2 dx dy sx sy n (x + sx) (y + if 2 * err < dx then sy else 0)
        (err - dy + if 2 * err < dx then dx else 0) := by
  by_cases hy : 2 * err < dx <;> simp [lineLoop, hx, he, hy]

/-! ## The rounding -/

/-- How far the ideal segment of `a` steps along its longer side and `b` along its shorter has come along the shorter one
after `k` steps: rounded to the nearest integer, a tie to the lower one. -/
def minorStep (a b k : Nat) : Int := (2 * (k : Int) * b + a - 1) / (2 * a)

/-- The error term of LINE after `k` steps along the longer side. -/
def lineError (a b k : Nat) : Int := a * (minorStep a b k + 1) - b * (k + 1)

theorem minorStep_eq_iff {a : Nat} (ha : 0 < a) (b k : Nat) (j : Int) :
    minorStep a b k = j ↔ j * (2 * a) ≤ 2 * k * b + a - 1 ∧ 2 * k * b + a - 1 < j * (2 * a) + 2 * a :=
  Int.ediv_eq_iff_of_pos (by omega)

theorem minorStep_zero (a b : Nat) : minorStep a b 0 = 0 := by
  rcases Nat.eq_zero_or_pos a with rfl | ha
  · simp [minorStep]
  · rw [minorStep_eq_iff ha]
    constructor <;> push_cast <;> omega

theorem minorStep_last {a b : Nat} (hba : b ≤ a) : minorStep a b a = b := by
  rcases Nat.eq_zero_or_pos a with rfl | ha
  · obtain rfl : b = 0 := by omega
    rfl
  · rw [minorStep_eq_iff ha]
    constructor <;> linarith

theorem minorStep_diagonal {a : Nat} (ha : 0 < a) (k : Nat) : minorStep a a k = k := by
  rw [minorStep_eq_iff ha]
  constructor <;> linarith

/-- The rounded segment climbs in step `k + 1` exactly where the loop's y test fires. -/
theorem minorStep_succ {a b : Nat} (ha : 0 < a) (hba : b ≤ a) (k : Nat) :
    minorStep a b (k + 1) = minorStep a b k + if 2 * lineError a b k < a then 1 else 0 := by
  obtain ⟨hlo, hhi⟩ := (minorStep_eq_iff ha b k _).1 rfl
  rw [minorStep_eq_iff ha]
  push_cast
  split
  case isTrue he =>
    unfold lineError at he
    constructor <;> linarith
  case isFalse he =>
    unfold lineError at he
    constructor <;> linarith

theorem lineError_succ {a b : Nat} (ha : 0 < a) (hba : b ≤ a) (k : Nat) :
    lineError a b (k + 1) = lineError a b k - b + if 2 * lineError a b k < a then (a : Int) else 0 := by
  rw [lineError, minorStep_succ ha hba]
  split <;> rw [lineError] <;> push_cast <;> ring

/-- The test along the longer side fires in every pass. On the diagonal the rounding alone does not say so. -/
theorem neg_lt_lineError {a b : Nat} (ha : 0 < a) (hba : b ≤ a) (k : Nat) : -(b : Int) < 2 * lineError a b k := by
  unfold lineError
  rcases hba.lt_or_eq with hlt | rfl
  · obtain ⟨hlo, hhi⟩ := (minorStep_eq_iff ha b k _).1 rfl
    linarith
  · rw [minorStep_diagonal ha]
    linarith

/-! ## A segment at least as wide as high -/

/-- The `k`-th point of the rounded segment, `k` steps along x. -/
def widePoint (x1 y1 x2 y2 : Int) (k : Nat) : Point :=
  (x1 + (x2 - x1).sign * k, y1 + (y2 - y1).sign * minorStep (x2 - x1).natAbs (y2 - y1).natAbs k)

theorem widePoint_zero (x1 y1 x2 y2 : Int) : widePoint x1 y1 x2 y2 0 = (x1, y1) := by
  simp [widePoint, minorStep_zero]

/-- Before the last step along x the point has not reached the end point's column. -/
theorem fst_widePoint_ne {x1 y1 x2 y2 : Int} {k : Nat} (hk : k < (x2 - x1).natAbs) :
    (widePoint x1 y1 x2 y2 k).1 ≠ x2 := by
  have hend := Int.sign_mul_natAbs (x2 - x1)
  have hne : (x2 - x1).sign ≠ 0 := mt Int.sign_eq_zero_iff_zero.1 (by omega)
  intro h
  have hsteps : (x2 - x1).sign * (k : Int) = (x2 - x1).sign * (x2 - x1).natAbs := by
    simp only [widePoint] at h
    omega
  have hk' := mul_left_cancel₀ hne hsteps
  omega

section
variable {x1 y1 x2 y2 : Int} (hw : (y2 - y1).natAbs ≤ (x2 - x1).natAbs)
include hw

theorem widePoint_last : widePoint x1 y1 x2 y2 (x2 - x1).natAbs = (x2, y2) := by
  simp only [widePoint, minorStep_last hw, Int.sign_mul_natAbs, add_sub_cancel]

theorem widePoint_succ {k : Nat} (ha : 0 < (x2 - x1).natAbs) :
    widePoint x1 y1 x2 y2 (k + 1) = ((widePoint x1 y1 x2 y2 k).1 + (x2 - x1).sign,
      (widePoint x1 y1 x2 y2 k).2 +
        if 2 * lineError (x2 - x1).natAbs (y2 - y1).natAbs k < (x2 - x1).natAbs then (y2 - y1).sign else 0) := by
  simp only [widePoint, minorStep_succ ha hw, mul_add, mul_ite, Nat.cast_succ, mul_one, mul_zero, add_assoc]

/-- From the `k`-th point of the segment the loop plots the points from there on, whatever bound above the passes it is
given. -/
theorem lineLoop_widePoint (m k n : Nat) (hk : k + m = (x2 - x1).natAbs) (hn : m < n) :
    lineLoop x2 y2 (x2 - x1).natAbs (y2 - y1).natAbs (x2 - x1).sign (y2 - y1).sign n
        (widePoint x1 y1 x2 y2 k).1 (widePoint x1 y1 x2 y2 k).2 (lineError (x2 - x1).natAbs (y2 - y1).natAbs k) =
      (List.range' k (m + 1)).map (widePoint x1 y1 x2 y2) := by
  obtain ⟨n, rfl⟩ : ∃ n', n = n' + 1 := ⟨n - 1, by omega⟩
  induction m generalizing k n with
  | zero =>
    obtain rfl : k = (x2 - x1).natAbs := by omega
    rw [widePoint_last hw, lineLoop_end]
    simp [widePoint_last hw]
  | succ m ih =>
    have ha : 0 < (x2 - x1).natAbs := by omega
    have hx : (widePoint x1 y1 x2 y2 k).1 ≠ x2 := fst_widePoint_ne (by omega)
    obtain ⟨n, rfl⟩ : ∃ n', n = n' + 1 := ⟨n - 1, by omega⟩
    rw [lineLoop_stepX _ hx (neg_lt_lineError ha hw k), ← lineError_succ ha hw, List.range'_succ, List.map_cons]
    have hnext := ih (k + 1) (by omega) n (by omega)
    rw [widePoint_succ hw ha] at hnext
    rw [hnext]

theorem linePoints_of_wide :
    linePoints x1 y1 x2 y2 = (List.range ((x2 - x1).natAbs + 1)).map (widePoint x1 y1 x2 y2) := by
  have h := lineLoop_widePoint hw (x2 - x1).natAbs 0 ((x2 - x1).natAbs + (y2 - y1).natAbs + 1) (by omega) (by omega)
  have herr : lineError (x2 - x1).natAbs (y2 - y1).natAbs 0 = (x2 - x1).natAbs - (y2 - y1).natAbs := by
    simp [lineError, minorStep_zero]
  rwa [widePoint_zero, herr, ← List.range_eq_range'] at h

end

theorem linePoints_of_tall {x1 y1 x2 y2 : Int} (ht : (x2 - x1).natAbs ≤ (y2 - y1).natAbs) :
    linePoints x1 y1 x2 y2 =
      (List.range ((y2 - y1).natAbs + 1)).map (fun k => (widePoint y1 x1 y2 x2 k).swap) := by
  rw [linePoints_swap, linePoints_of_wide ht, List.map_map]
  rfl

/-- A list of naturals read as integers, the form in which the statement of LINE's closed formula ranges over `k`. -/
theorem map_cast_eq {α : Type} (f : Int → α) (l : List Nat) :
    List.map f (do let k ← l; pure (k : Int)) = l.map (fun k : Nat => f k) := by
  simp only [bind_pure_comp, List.map_eq_map, List.map_map]
  rfl

/-! ## Walks from end to end -/

/-- The list is a walk of `n` steps from `p` to `q`, each point a new neighbour of the one before (R92 (a) to (d)). -/
structure IsWalk (ps : List Point) (n : Nat) (p q : Point) : Prop where
  length : ps.length = n + 1
  nodup : ps.Nodup
  head : ps.head? = some p
  last : ps.getLast? = some q
  near : ∀ (k : Nat) (a b : Point), ps[k]? = some a → ps[k + 1]? = some b →
    (b.1 - a.1).natAbs ≤ 1 ∧ (b.2 - a.2).natAbs ≤ 1

theorem IsWalk.swap {ps : List Point} {n : Nat} {p q : Point} (h : IsWalk ps n p q) :
    IsWalk (ps.map Prod.swap) n p.swap q.swap where
  length := by rw [List.length_map, h.length]
  nodup := h.nodup.map Prod.swap_injective
  head := by rw [List.head?_map, h.head]; rfl
  last := by rw [List.getLast?_map, h.last]; rfl
  near k a b ha hb := by
    rw [List.getElem?_map, Option.map_eq_some_iff] at ha hb
    obtain ⟨a, ha, rfl⟩ := ha
    obtain ⟨b, hb, rfl⟩ := hb
    exact (h.near k a b ha hb).symm

theorem IsWalk.ne {ps : List Point} {n : Nat} {p q : Point} (h : IsWalk ps n p q) {k : Nat} {a b : Point}
    (ha : ps[k]? = some a) (hb : ps[k + 1]? = some b) : a ≠ b := by
  rintro rfl
  have hk := (List.getElem?_eq_some_iff.1 ha).1
  have := (List.nodup_iff_getElem?_ne_getElem?.1 h.nodup) k (k + 1) (by omega) (List.getElem?_eq_some_iff.1 hb).1
  exact this (ha.trans hb.symm)

section
variable {x1 y1 x2 y2 : Int} (hw : (y2 - y1).natAbs ≤ (x2 - x1).natAbs)
include hw

theorem widePoint_near {k : Nat} (hk : k < (x2 - x1).natAbs) :
    ((widePoint x1 y1 x2 y2 (k + 1)).1 - (widePoint x1 y1 x2 y2 k).1).natAbs ≤ 1 ∧
      ((widePoint x1 y1 x2 y2 (k + 1)).2 - (widePoint x1 y1 x2 y2 k).2).natAbs ≤ 1 := by
  have hsx := Int.natAbs_sign (x2 - x1)
  have hsy := Int.natAbs_sign (y2 - y1)
  rw [widePoint_succ hw (by omega)]
  constructor <;> simp only [add_sub_cancel_left] <;> split_ifs at * <;> omega

theorem isWalk_linePoints_of_wide : IsWalk (linePoints x1 y1 x2 y2) (x2 - x1).natAbs (x1, y1) (x2, y2) := by
  rw [linePoints_of_wide hw]
  constructor
  case length => simp
  case nodup =>
    refine List.Nodup.map_on (fun j hj k hk hjk => ?_) List.nodup_range
    have hx : (x2 - x1).sign * j = (x2 - x1).sign * k := by simpa [widePoint] using congrArg Prod.fst hjk
    rcases eq_or_ne (x2 - x1) 0 with h0 | h0
    · simp only [h0, List.mem_range, Int.natAbs_zero] at hj hk; omega
    · exact_mod_cast mul_left_cancel₀ (mt Int.sign_eq_zero_iff_zero.1 h0) hx
  case head => rw [List.head?_map, List.head?_range, if_neg (by omega), Option.map_some, widePoint_zero]
  case last =>
    rw [List.getLast?_map, List.getLast?_range, if_neg (by omega), Option.map_some, Nat.add_sub_cancel,
      widePoint_last hw]
  case near =>
    intro k a b ha hb
    obtain ⟨_, rfl⟩ := List.getElem?_eq_some_iff.1 ha
    obtain ⟨hk, rfl⟩ := List.getElem?_eq_some_iff.1 hb
    simp only [List.length_map, List.length_range] at hk
    simpa using widePoint_near hw (k := k) (by omega)

end

theorem isWalk_linePoints (x1 y1 x2 y2 : Int) :
    IsWalk (linePoints x1 y1 x2 y2) (max (x2 - x1).natAbs (y2 - y1).natAbs) (x1, y1) (x2, y2) := by
  rcases le_total (y2 - y1).natAbs (x2 - x1).natAbs with h | h
  · rw [max_eq_left h]
    exact isWalk_linePoints_of_wide h
  · rw [max_eq_right h, linePoints_swap]
    exact (isWalk_linePoints_of_wide h).swap

end Sys2Proof.Machine

namespace Sys2Proof.Proofs
open Sys2Proof.Machine

/-- Settles O39: the loop's invariant on a wide segment, and the exchange of the coordinates on a tall one. -/
theorem lineIsTheRoundedSegment : Obligations.LineIsTheRoundedSegment := by
  refine fun x1 y1 x2 y2 => ⟨fun hw => ?_, fun ht => ?_⟩
  · rw [map_cast_eq]
    exact linePoints_of_wide hw
  · rw [map_cast_eq]
    exact linePoints_of_tall ht.le

/-- Settles O38: read off the rounded segment, whose points differ in the longer coordinate. -/
theorem lineWalksFromEndToEnd : Obligations.LineWalksFromEndToEnd := by
  refine ⟨fun x1 y1 x2 y2 => ?_, rfl, rfl⟩
  have h := isWalk_linePoints x1 y1 x2 y2
  exact ⟨h.length, h.nodup, h.head, h.last, fun k p q hp hq => ⟨h.ne hp hq, h.near k p q hp hq⟩⟩

end Sys2Proof.Proofs
end

section
/-! The rectangles' points (41_raster.md R93, R94, R96) and the circle's (R98), and what the four shape commands paint. -/
namespace Sys2Proof.Machine
open Sys2Proof.Claims

/-! ## Horizontal and vertical lines -/

theorem sign_mul_of_le {w k : Nat} (h : k ≤ w) : (w : Int).sign * k = k := by
  rcases Nat.eq_zero_or_pos w with rfl | hw
  · obtain rfl : k = 0 := by omega
    rfl
  · rw [Int.sign_natCast_of_ne_zero (by omega), one_mul]

theorem mem_linePoints_horizontal (x y : Int) (w : Nat) (p : Point) :
    p ∈ linePoints x y (x + w) y ↔ x ≤ p.1 ∧ p.1 ≤ x + w ∧ p.2 = y := by
  rw [linePoints_of_wide (by simp)]
  simp only [List.mem_map, List.mem_range, widePoint, add_sub_cancel_left, Int.natAbs_natCast, sub_self,
    Int.sign_zero, zero_mul, add_zero]
  constructor
  · rintro ⟨k, hk, rfl⟩
    rw [sign_mul_of_le (by omega)]
    refine ⟨?_, ?_, rfl⟩ <;> omega
  · rintro ⟨hlo, hhi, hy⟩
    refine ⟨(p.1 - x).toNat, by omega, Prod.ext ?_ hy.symm⟩
    rw [sign_mul_of_le (by omega)]
    omega

theorem mem_linePoints_vertical (x y : Int) (n : Nat) (p : Point) :
    p ∈ linePoints x y x (y + n) ↔ p.1 = x ∧ y ≤ p.2 ∧ p.2 ≤ y + n := by
  obtain ⟨a, b⟩ := p
  rw [linePoints_swap, ← Prod.swap_prod_mk (a := b), List.mem_map_of_injective Prod.swap_injective,
    mem_linePoints_horizontal]
  tauto

/-! ## Rectangles -/

theorem mem_filledRectPoints_iff (x y : Int) (w h : Nat) (p : Point) :
    p ∈ filledRectPoints x y w h ↔ InBlock x y w h p := by
  simp only [filledRectPoints, List.mem_flatMap, List.mem_range, mem_linePoints_horizontal, InBlock]
  constructor
  · rintro ⟨r, hr, hlo, hhi, hy⟩
    omega
  · rintro ⟨hlo, hhi, hy0, hy1⟩
    exact ⟨(p.2 - y).toNat, by omega, hlo, hhi, by omega⟩

theorem mem_rectPoints_iff (x y : Int) (w h : Nat) (p : Point) :
    p ∈ rectPoints x y w h ↔ OnBoundary x y w h p := by
  rcases h with - | n
  · simp only [rectPoints, reduceIte, List.not_mem_nil, OnBoundary, InBlock, Nat.cast_zero, false_iff]
    omega
  · have hbottom : y + (n + 1 : Nat) - 1 = y + n := by omega
    simp only [rectPoints, Nat.succ_ne_zero, if_false, hbottom, List.mem_append, mem_linePoints_horizontal,
      mem_linePoints_vertical, OnBoundary, InBlock]
    omega

theorem rectangles_of_height_zero (x y : Int) (w : Nat) : filledRectPoints x y w 0 = [] ∧ rectPoints x y w 0 = [] :=
  ⟨rfl, rfl⟩

/-! ## The iterations of CIRCLE -/

/-- What CIRCLE keeps of its working values for radius `r`: the decision value is the midpoint test of the ideal circle,
and the point misses that circle by less than a pixel (R98). -/
structure OnCircle (r : Nat) (x y d : Int) : Prop where
  le_radius : x ≤ r
  decision : d = (y + 1) ^ 2 + x ^ 2 - x - (r : Int) ^ 2
  inner : -x ≤ x ^ 2 + y ^ 2 - (r : Int) ^ 2
  outer : x ^ 2 + y ^ 2 - (r : Int) ^ 2 ≤ x

theorem onCircle_start (r : Nat) : OnCircle r r 0 (1 - r) := by
  constructor <;> linarith

/-- Where the midpoint lies inside the circle, the next point is the one above. -/
theorem OnCircle.up {r : Nat} {x y d : Int} (h : OnCircle r x y d) (hy : 0 ≤ y) (hd : d ≤ 0) :
    OnCircle r x (y + 1) (d + 2 * (y + 1) + 1) := by
  obtain ⟨hr, hdec, hin, hout⟩ := h
  constructor <;> linarith

/-- Where it lies outside, the next point is one further in, as long as that point is in the octant. -/
theorem OnCircle.inward {r : Nat} {x y d : Int} (h : OnCircle r x y d) (hd : 0 < d) (hyx : y + 1 ≤ x - 1) :
    OnCircle r (x - 1) (y + 1) (d + 2 * ((y + 1) - (x - 1)) + 1) := by
  obtain ⟨hr, hdec, hin, hout⟩ := h
  constructor <;> linarith

theorem circleLoop_of_lt {x y : Int} (h : x < y) (n : Nat) (d : Int) : circleLoop n x y d = [] := by
  cases n with
  | zero => rfl
  | succ n => rw [circleLoop, if_neg (by omega)]

theorem circleLoop_of_le {x y : Int} (h : y ≤ x) (n : Nat) (d : Int) :
    circleLoop (n + 1) x y d =
      (x, y, d) ::
        if d ≤ 0 then circleLoop n x (y + 1) (d + 2 * (y + 1) + 1)
        else circleLoop n (x - 1) (y + 1) (d + 2 * ((y + 1) - (x - 1)) + 1) := by
  rw [circleLoop, if_pos h]

/-- Every iteration from values on the circle has values on the circle, and `y` counts the iterations. -/
theorem onCircle_of_circleLoop {r n k : Nat} {x y d x' y' d' : Int} (hy : 0 ≤ y) (hc : y ≤ x → OnCircle r x y d)
    (hk : (circleLoop n x y d)[k]? = some (x', y', d')) : y' = y + k ∧ y' ≤ x' ∧ OnCircle r x' y' d' := by
  induction n generalizing x y d k with
  | zero => cases hk
  | succ n ih =>
    by_cases hyx : y ≤ x
    · rw [circleLoop_of_le hyx] at hk
      cases k with
      | zero =>
        cases hk
        exact ⟨by simp, hyx, hc hyx⟩
      | succ k =>
        rw [List.getElem?_cons_succ] at hk
        have hrest : y' = y + 1 + k ∧ y' ≤ x' ∧ OnCircle r x' y' d' := by
          split at hk
          case isTrue hd => exact ih (by omega) (fun _ => (hc hyx).up hy hd) hk
          case isFalse hd => exact ih (by omega) ((hc hyx).inward (by omega)) hk
        obtain ⟨hy', hin, hcirc⟩ := hrest
        exact ⟨by push_cast; omega, hin, hcirc⟩
    · rw [circleLoop_of_lt (by omega)] at hk
      cases hk

theorem circleSteps_onCircle {r k : Nat} {x y d : Int} (h : (circleSteps r)[k]? = some (x, y, d)) :
    y = k ∧ y ≤ x ∧ OnCircle r x y d := by
  simpa using onCircle_of_circleLoop le_rfl (fun _ => onCircle_start r) h

/-! ## The points of CIRCLE -/

/-- The eight points of an iteration are those whose distances from the centre along the axes are `x` and `y`, in either
order. -/
theorem mem_octants_iff (cx cy x y a b : Int) :
    (cx + a, cy + b) ∈ octants cx cy x y ↔
      (a.natAbs = x.natAbs ∧ b.natAbs = y.natAbs) ∨ (a.natAbs = y.natAbs ∧ b.natAbs = x.natAbs) := by
  -- Each distance leaves a choice of two signs: distributing the choices writes out the eight points in R98's order.
  simp only [octants, List.mem_cons, List.not_mem_nil, or_false, Prod.mk.injEq, sub_eq_add_neg, add_right_inj,
    Int.natAbs_eq_natAbs_iff, and_or_left, or_and_right, or_assoc]

theorem mem_circlePoints_iff (cx cy a b : Int) (r : Nat) :
    (cx + a, cy + b) ∈ circlePoints cx cy r ↔ ∃ q ∈ circleSteps r,
      (a.natAbs = q.1.natAbs ∧ b.natAbs = q.2.1.natAbs) ∨ (a.natAbs = q.2.1.natAbs ∧ b.natAbs = q.1.natAbs) := by
  simp only [circlePoints, List.mem_flatMap, mem_octants_iff]

/-- Only the distances from the centre along the axes matter. -/
theorem mem_circlePoints_congr (cx cy : Int) (r : Nat) {a b a' b' : Int} (ha : a.natAbs = a'.natAbs)
    (hb : b.natAbs = b'.natAbs) :
    (cx + a, cy + b) ∈ circlePoints cx cy r ↔ (cx + a', cy + b') ∈ circlePoints cx cy r := by
  rw [mem_circlePoints_iff, mem_circlePoints_iff, ha, hb]

theorem mem_circlePoints_diagonal (cx cy a b : Int) (r : Nat) :
    (cx + a, cy + b) ∈ circlePoints cx cy r ↔ (cx + b, cy + a) ∈ circlePoints cx cy r := by
  rw [mem_circlePoints_iff, mem_circlePoints_iff]
  refine exists_congr fun q => and_congr_right fun _ => ?_
  rw [or_comm, and_comm (a := b.natAbs = _), and_comm (a := b.natAbs = _)]

theorem centre_mem_circlePoints_iff (cx cy : Int) (r : Nat) : (cx, cy) ∈ circlePoints cx cy r ↔ r = 0 := by
  have h := mem_circlePoints_iff cx cy 0 0 r
  rw [add_zero, add_zero] at h
  rw [h]
  constructor
  · rintro ⟨⟨x, y, d⟩, hq, h0⟩
    obtain ⟨k, hk⟩ := List.mem_iff_getElem?.1 hq
    obtain ⟨-, -, hcirc⟩ := circleSteps_onCircle hk
    have hx : x = 0 := by simp only at h0; omega
    have hy : y = 0 := by simp only at h0; omega
    have hin := hcirc.inner
    rw [hx, hy] at hin
    have hr : (r : Int) = 0 := by nlinarith
    exact_mod_cast hr
  · rintro rfl
    exact ⟨(0, 0, 1), by decide, by decide⟩

/-! ## Commands that plot one shape -/

/-- A shape command paints its points (40_pixel.md R82, 60_exceptions.md R154). -/
theorem drawShape_paints {s : State} (hs : s.status = .initialized) (on : Bool) {ps : List Point} {S : Point → Prop}
    (hS : ∀ p, p ∈ ps ↔ S p) : ∃ t, drawShape on ps s = .next t ∧ Paints S on s t := by
  refine ⟨_, drawShape_eq hs on ps, fun hall => ?_, fun ⟨p, hp, hout⟩ => ?_, fun p hp hin => ?_, fun i b hib => ?_⟩
  · have hany : ps.any (fun p => !inRange s.cfg p) = false := by
      simpa using fun p hp => hall _ ((hS p).1 hp)
    rw [hany, plotAll_state]
    rfl
  · have hany : ps.any (fun p => !inRange s.cfg p) = true := by
      simpa using ⟨_, _, (hS p).2 hp, hout⟩
    rw [hany, plotAll_state]
    rfl
  · exact (pixel_plotAll on (startRun s) ps hin).trans (if_pos ((hS p).2 hp))
  · refine (getLsbD_memRead_plotAll on (startRun s) ps i b).trans (if_neg ?_)
    rintro ⟨p, hp, hin, hpi⟩
    exact hib p ((hS p).1 hp) hin hpi

end Sys2Proof.Machine

namespace Sys2Proof.Proofs
open Sys2Proof.Machine

/-- Settles O40: the rows are horizontal lines, and the outline's sides are horizontal and vertical ones. -/
theorem rectanglesCoverTheirExtent : Obligations.RectanglesCoverTheirExtent := by
  refine fun x y w h p => ⟨mem_filledRectPoints_iff x y w h p, mem_rectPoints_iff x y w h p, ?_⟩
  rintro rfl
  exact rectangles_of_height_zero x y w

/-- Settles O37: DRAW_LINE is one shape. -/
theorem drawLinePaintsItsPoints : Obligations.DrawLinePaintsItsPoints :=
  fun _ _ _ _ on _ hs => drawShape_paints hs on fun _ => Iff.rfl

/-- Settles O41: the outline's points are the boundary. -/
theorem drawRectPaintsTheBoundary : Obligations.DrawRectPaintsTheBoundary :=
  fun x y w h on _ hs => drawShape_paints hs on (mem_rectPoints_iff x.toInt y.toInt w.toNat h.toNat)

/-- Settles O42: the rows' points are the block. -/
theorem drawFilledRectPaintsTheBlock : Obligations.DrawFilledRectPaintsTheBlock :=
  fun x y w h on _ hs => drawShape_paints hs on (mem_filledRectPoints_iff x.toInt y.toInt w.toNat h.toNat)

/-- Settles O43: DRAW_CIRCLE is one shape. -/
theorem drawCirclePaintsItsPoints : Obligations.DrawCirclePaintsItsPoints :=
  fun _ _ _ on _ hs => drawShape_paints hs on fun _ => Iff.rfl

/-- Settles O44: membership depends on the two distances from the centre along the axes, in either order, and the
loop's invariant bounds them from below by the radius. -/
theorem circleIsSymmetricAndHollow : Obligations.CircleIsSymmetricAndHollow :=
  fun cx cy a b r =>
    ⟨mem_circlePoints_congr cx cy r (Int.natAbs_neg a).symm rfl,
      mem_circlePoints_congr cx cy r rfl (Int.natAbs_neg b).symm,
      mem_circlePoints_diagonal cx cy a b r, centre_mem_circlePoints_iff cx cy r⟩

/-- Settles O45, by the invariant of the loop. -/
theorem circleStepsFollowTheIdealCircle : Obligations.CircleStepsFollowTheIdealCircle := by
  intro r k x y d h
  obtain ⟨hy, hyx, hcirc⟩ := circleSteps_onCircle h
  exact ⟨hy, hyx, hcirc.le_radius, hcirc.decision, hcirc.inner, hcirc.outer⟩

/-- Settles O46, by running the loop for the six radii. -/
theorem circleTable : Obligations.CircleTable :=
  ⟨by decide, by decide, by decide, by decide, by decide, by decide, by decide⟩

end Sys2Proof.Proofs
end

section
/-! The cursor commands and ADVANCE (42_text.md R110, R111, R114, R115). -/
namespace Sys2Proof.Machine
open Sys2Proof.Claims

/-! ## SET_CURSOR -/

/-- An operand that is not negative has the same bits read signed or unsigned (30_encoding.md R61). -/
theorem ofNat_toNat_s16 {h : Half} (hpos : 0 ≤ h.toInt) : BitVec.ofNat 16 (s16 h).toNat = h := by
  rw [← BitVec.ofInt_natCast, s16, Int.toNat_of_nonneg hpos, BitVec.ofInt_toInt]

/-- Operands inside the buffer are not negative, so both registers take them bit for bit. -/
theorem setCursor_of_inRange {s : State} {x y : Half} (h : inRange s.cfg (point x y) = true) :
    s.setCursor (s16 x).toNat (s16 y).toNat = { s with cursorX := x, cursorY := y } := by
  obtain ⟨hx, _, hy, _⟩ := (inRange_point_iff s.cfg x y).1 h
  rw [setCursor_eq, ofNat_toNat_s16 hx, ofNat_toNat_s16 hy]

theorem exec_setCursor_uninitialized (x y : Half) {s : State} (hs : s.status ≠ .initialized) :
    exec (.setCursor x y) s = .next (complete .notInitialized [] s) :=
  requireInitialized_of_ne hs

theorem exec_setCursor_outside {x y : Half} {s : State} (hs : s.status = .initialized)
    (h : inRange s.cfg (point x y) = false) :
    exec (.setCursor x y) s = .next (complete .invalidArgument [] s) := by
  show execSetCursor x y s = _
  rw [execSetCursor, requireInitialized_of_eq hs, if_neg (by simp [h])]
  rfl

theorem exec_setCursor_inside {x y : Half} {s : State} (hs : s.status = .initialized)
    (h : inRange s.cfg (point x y) = true) :
    exec (.setCursor x y) s = .next (complete .ok [] { s with cursorX := x, cursorY := y }) := by
  show execSetCursor x y s = _
  rw [execSetCursor, requireInitialized_of_eq hs, if_pos h, setCursor_of_inRange h]
  rfl

/-! ## GET_CURSOR -/

/-- A 16-bit field as the number its two bytes make, low byte first (30_encoding.md R61). -/
theorem lo8_add_hi8 (h : Half) : (lo8 h).toNat + 256 * (hi8 h).toNat = h.toNat := by
  have hlt := h.isLt
  simp only [lo8, hi8, BitVec.extractLsb'_toNat, Nat.shiftRight_eq_div_pow]
  omega

theorem exec_getCursor_uninitialized {s : State} (hs : s.status ≠ .initialized) :
    exec .getCursor s = .next (complete .notInitialized [0x00, 0x00, 0x00, 0x00] s) :=
  requireInitialized_of_ne hs

theorem exec_getCursor_initialized {s : State} (hs : s.status = .initialized) :
    exec .getCursor s =
      .next (complete .ok [lo8 s.cursorX, hi8 s.cursorX, lo8 s.cursorY, hi8 s.cursorY] s) :=
  requireInitialized_of_eq hs

/-! ## ADVANCE -/

section
variable {s : State} {scale : Byte}

/-- The next column, on the same line. -/
theorem advance_nextColumn (hx : s.cursorX.toNat + s.cfg.glyphCols * scale.toNat + 1 < s.cfg.fbW) :
    advance scale s = s.setCursor (s.cursorX.toNat + s.cfg.glyphCols * scale.toNat + 1) s.cursorY.toNat :=
  if_neg (Nat.not_le.2 hx)

/-- The line is full: the next text line. -/
theorem advance_nextLine (hx : s.cfg.fbW ≤ s.cursorX.toNat + s.cfg.glyphCols * scale.toNat + 1)
    (hy : s.cursorY.toNat + s.cfg.glyphRows * scale.toNat + 1 < s.cfg.fbH) :
    advance scale s = s.setCursor 0 (s.cursorY.toNat + s.cfg.glyphRows * scale.toNat + 1) :=
  (if_pos hx).trans (if_neg (Nat.not_le.2 hy))

/-- The last line is full: the origin. -/
theorem advance_origin (hx : s.cfg.fbW ≤ s.cursorX.toNat + s.cfg.glyphCols * scale.toNat + 1)
    (hy : s.cfg.fbH ≤ s.cursorY.toNat + s.cfg.glyphRows * scale.toNat + 1) :
    advance scale s = s.setCursor 0 0 :=
  (if_pos hx).trans (if_pos hy)

/-- A buffer's sides are below 2^16, so the registers hold the new column and line (00_scope.md R8). -/
theorem advances_advance (hw : s.cfg.wf) : Advances s (advance scale s) scale := by
  obtain ⟨⟨_, hfbW⟩, ⟨_, hfbH⟩, _⟩ := hw
  refine ⟨fun hx => ?_, fun hx hy => ?_, fun hx hy => ?_⟩
  · rw [advance_nextColumn hx]
    exact ⟨(BitVec.toNat_ofNat _ _).trans (Nat.mod_eq_of_lt (by omega)), by simp⟩
  · rw [advance_nextLine hx hy]
    exact ⟨rfl, (BitVec.toNat_ofNat _ _).trans (Nat.mod_eq_of_lt (by omega))⟩
  · rw [advance_origin hx hy]
    exact ⟨rfl, rfl⟩

end

/-- R115 (b): CURSOR_X is 0 or has grown. -/
theorem cursorX_zero_or_lt_of_advances {s t : State} {scale : Byte} (h : Advances s t scale) :
    t.cursorX = 0 ∨ s.cursorX.toNat < t.cursorX.toNat := by
  obtain ⟨hcolumn, hline, horigin⟩ := h
  by_cases hx : s.cursorX.toNat + s.cfg.glyphCols * scale.toNat + 1 < s.cfg.fbW
  · have := (hcolumn hx).1
    omega
  · by_cases hy : s.cursorY.toNat + s.cfg.glyphRows * scale.toNat + 1 < s.cfg.fbH
    · exact .inl (hline (by omega) hy).1
    · exact .inl (horigin (by omega) (by omega)).1

/-- R115 (c): the cursor is the origin, or CURSOR_Y has not shrunk. -/
theorem origin_or_cursorY_le_of_advances {s t : State} {scale : Byte} (h : Advances s t scale) :
    (t.cursorX = 0 ∧ t.cursorY = 0) ∨ s.cursorY.toNat ≤ t.cursorY.toNat := by
  obtain ⟨hcolumn, hline, horigin⟩ := h
  by_cases hx : s.cursorX.toNat + s.cfg.glyphCols * scale.toNat + 1 < s.cfg.fbW
  · rw [(hcolumn hx).2]
    exact .inr le_rfl
  · by_cases hy : s.cursorY.toNat + s.cfg.glyphRows * scale.toNat + 1 < s.cfg.fbH
    · have := (hline (by omega) hy).2
      omega
    · exact .inl (horigin (by omega) (by omega))

end Sys2Proof.Machine

namespace Sys2Proof.Proofs
open Sys2Proof.Machine Sys2Proof.Claims

/-- Settles O48: the packet by its format, and each check by its equation. -/
theorem setCursorWritesTheCursor : Obligations.SetCursorWritesTheCursor := by
  refine ⟨fun x0 x1 y0 y1 => rfl, fun x y s => ⟨?_, fun hs h => ?_, fun hs h => ?_⟩⟩
  · exact exec_setCursor_uninitialized x y
  · exact exec_setCursor_outside hs ((not_inRange_point_iff s.cfg x y).2 h)
  · exact exec_setCursor_inside hs ((inRange_point_iff s.cfg x y).2 h)

/-- Settles O49: the packet by its format, and the two bytes of each register. -/
theorem getCursorReturnsTheCursor : Obligations.GetCursorReturnsTheCursor :=
  ⟨rfl, fun s => ⟨exec_getCursor_uninitialized, fun hs =>
    ⟨_, _, _, _, exec_getCursor_initialized hs, lo8_add_hi8 s.cursorX, lo8_add_hi8 s.cursorY⟩⟩⟩

/-- Settles O50: one equation a branch. -/
theorem advanceMovesTheCursor : Obligations.AdvanceMovesTheCursor :=
  fun s scale hw => ⟨advances_advance hw, advance_state scale s⟩

/-- Settles O51: read off where ADVANCE takes the cursor. -/
theorem advanceStaysInsideAndMovesOn : Obligations.AdvanceStaysInsideAndMovesOn := by
  intro s scale hw hx hy
  have hadv : Advances s (advance scale s) scale := advances_advance hw
  obtain ⟨hx', hy'⟩ := advance_cursorInside hw ⟨hx, hy⟩ scale
  rw [advance_cfg] at hx' hy'
  exact ⟨⟨hx', hy'⟩, cursorX_zero_or_lt_of_advances hadv, origin_or_cursorY_le_of_advances hadv,
    advance_fb scale s⟩

end Sys2Proof.Proofs
end

section
/-! DRAW_GLYPH and DRAW_STRING (42_text.md R112, R113, R116, R117): a glyph is a shape and then ADVANCE; a string is its
characters drawn one after the other, and a character without a glyph only latches InvalidArgument. -/
namespace Sys2Proof.Machine
open Sys2Proof.Claims

/-! ## The checks -/

theorem glyphOk_iff (c : Config) (code : Byte) : glyphOk c code = true ↔ HasGlyph c code := by
  rw [glyphOk, decide_eq_true_eq, HasGlyph, u8]
  exact and_congr_right fun h => by omega

theorem u8_eq_zero_iff (b : Byte) : u8 b = 0 ↔ b = 0 := BitVec.toNat_inj (y := 0)

theorem exec_drawGlyph_rejected {code scale : Byte} {s : State} (hs : s.status = .initialized)
    (h : scale = 0 ∨ ¬ HasGlyph s.cfg code) :
    exec (.drawGlyph code scale) s = .next (complete .invalidArgument [] s) := by
  show execDrawGlyph code scale s = _
  rw [← glyphOk_iff, ← u8_eq_zero_iff] at h
  rw [execDrawGlyph, requireInitialized_of_eq hs]
  rcases h with hscale | hglyph
  · rw [if_pos hscale]
    rfl
  · rw [if_neg hglyph, ite_self]
    rfl

theorem exec_drawString_rejected {scale : Byte} {x y : Half} (chars : List Byte) {s : State}
    (hs : s.status = .initialized) (h : scale = 0 ∨ ¬ Inside s.cfg x.toInt y.toInt) :
    exec (.drawString scale x y chars) s = .next (complete .invalidArgument [] s) := by
  show execDrawString scale x y chars s = _
  rw [← not_inRange_point_iff, ← u8_eq_zero_iff] at h
  rw [execDrawString, requireInitialized_of_eq hs, if_pos h]
  rfl

theorem exec_drawGlyph_rendered {code scale : Byte} {s : State} (hs : s.status = .initialized)
    (hscale : 1 ≤ scale.toNat) (hglyph : HasGlyph s.cfg code) :
    exec (.drawGlyph code scale) s = settle (renderGlyph scale (startRun s) code) := by
  have hne : u8 scale ≠ 0 := Nat.one_le_iff_ne_zero.1 hscale
  show execDrawGlyph code scale s = _
  rw [execDrawGlyph, requireInitialized_of_eq hs, if_neg hne,
    if_pos ((glyphOk_iff s.cfg code).2 hglyph)]

theorem exec_drawString_rendered {scale : Byte} {x y : Half} (chars : List Byte) {s : State}
    (hs : s.status = .initialized) (hscale : 1 ≤ scale.toNat) (h : Inside s.cfg x.toInt y.toInt) :
    exec (.drawString scale x y chars) s =
      settle (chars.foldl (renderChar scale) (startRun { s with cursorX := x, cursorY := y })) := by
  have hin := (inRange_point_iff s.cfg x y).2 h
  have hchecks : ¬ (u8 scale = 0 ∨ inRange s.cfg (point x y) = false) :=
    not_or.2 ⟨Nat.one_le_iff_ne_zero.1 hscale, by simp [hin]⟩
  show execDrawString scale x y chars s = _
  rw [execDrawString, requireInitialized_of_eq hs, if_neg hchecks, setCursor_of_inRange hin]

theorem renderChar_of_hasGlyph {r : Run} {code : Byte} (scale : Byte) (h : HasGlyph r.state.cfg code) :
    renderChar scale r code = renderGlyph scale r code :=
  if_pos ((glyphOk_iff _ _).2 h)

theorem renderChar_of_not_hasGlyph {r : Run} {code : Byte} (scale : Byte) (h : ¬ HasGlyph r.state.cfg code) :
    renderChar scale r code = latchInvalidArgument r :=
  if_neg (mt (glyphOk_iff _ _).1 h)

/-! ## A glyph is a shape and then ADVANCE -/

/-- ADVANCE and the end of the command touch different fields. -/
theorem advance_complete (scale : Byte) (code : ResultCode) (data : List Byte) (s : State) :
    advance scale (complete code data s) = complete code data (advance scale s) := by
  simp only [advance, apply_ite (complete code data)]
  rfl

theorem exec_drawGlyph_eq_advance {code scale : Byte} {s : State} (hs : s.status = .initialized)
    (hscale : 1 ≤ scale.toNat) (hglyph : HasGlyph s.cfg code) :
    ∃ t, drawShape true (blitPoints s code scale) s = .next t ∧
      exec (.drawGlyph code scale) s = .next (advance scale t) := by
  refine ⟨_, requireInitialized_of_eq hs, ?_⟩
  rw [exec_drawGlyph_rendered hs hscale hglyph, advance_complete]
  rfl

theorem drawShape_cursor {on : Bool} {ps : List Point} {s t : State} (hs : s.status = .initialized)
    (h : drawShape on ps s = .next t) : t.cfg = s.cfg ∧ t.cursorX = s.cursorX ∧ t.cursorY = s.cursorY := by
  rw [drawShape_eq hs, plotAll_state] at h
  cases h
  exact ⟨rfl, rfl, rfl⟩

/-- Where ADVANCE takes the cursor depends on the parameters and the cursor alone. -/
theorem advances_congr {s t u : State} {scale : Byte} (h : Advances t u scale) (hc : t.cfg = s.cfg)
    (hx : t.cursorX = s.cursorX) (hy : t.cursorY = s.cursorY) : Advances s u scale := by
  rwa [Advances, hc, hx, hy] at h

/-! ## A latched InvalidArgument changes nothing that follows (60_exceptions.md R154) -/

theorem plot_latchInvalidArgument (on : Bool) (r : Run) (p : Point) :
    plot on (latchInvalidArgument r) p = latchInvalidArgument (plot on r p) := by
  cases hp : inRange r.state.cfg p
  · rw [plot_of_not_inRange hp, plot_of_not_inRange (r := latchInvalidArgument r) hp]
    rfl
  · rw [plot_of_inRange hp, plot_of_inRange (r := latchInvalidArgument r) hp]
    rfl

theorem plotAll_latchInvalidArgument (on : Bool) (r : Run) (ps : List Point) :
    plotAll on (latchInvalidArgument r) ps = latchInvalidArgument (plotAll on r ps) :=
  List.foldl_hom latchInvalidArgument (plot_latchInvalidArgument on)

theorem renderGlyph_latchInvalidArgument (scale : Byte) (r : Run) (code : Byte) :
    renderGlyph scale (latchInvalidArgument r) code = latchInvalidArgument (renderGlyph scale r code) := by
  rw [renderGlyph, plotAll_latchInvalidArgument]
  rfl

theorem renderChar_latchInvalidArgument (scale : Byte) (r : Run) (code : Byte) :
    renderChar scale (latchInvalidArgument r) code = latchInvalidArgument (renderChar scale r code) := by
  by_cases hglyph : HasGlyph r.state.cfg code
  · rw [renderChar_of_hasGlyph scale hglyph, renderChar_of_hasGlyph (r := latchInvalidArgument r) scale hglyph,
      renderGlyph_latchInvalidArgument]
  · rw [renderChar_of_not_hasGlyph scale hglyph, renderChar_of_not_hasGlyph (r := latchInvalidArgument r) scale hglyph]

theorem renderChars_latchInvalidArgument (scale : Byte) (r : Run) (chars : List Byte) :
    chars.foldl (renderChar scale) (latchInvalidArgument r) =
      latchInvalidArgument (chars.foldl (renderChar scale) r) :=
  List.foldl_hom latchInvalidArgument (renderChar_latchInvalidArgument scale)

/-- A character without a glyph has no effect on the rest of the string but the latched result (R116). -/
theorem renderChars_skip {r : Run} {c : Byte} (scale : Byte) (pre post : List Byte) (h : ¬ HasGlyph r.state.cfg c) :
    (pre ++ c :: post).foldl (renderChar scale) r =
      latchInvalidArgument ((pre ++ post).foldl (renderChar scale) r) := by
  have hskip : ¬ HasGlyph (pre.foldl (renderChar scale) r).state.cfg c := by rwa [renderChars_state]
  rw [List.foldl_append, List.foldl_cons, renderChar_of_not_hasGlyph scale hskip, renderChars_latchInvalidArgument,
    List.foldl_append]

/-! ## What rendering reads -/

/-- The two states agree on all that a glyph's rendering reads and writes: the parameters, the cursor, FB and the draw
of its unwritten bytes. They may differ in what has been reported. -/
structure SameCanvas (s t : State) : Prop where
  cfg : s.cfg = t.cfg
  cursorX : s.cursorX = t.cursorX
  cursorY : s.cursorY = t.cursorY
  fb : s.fb = t.fb
  resets : s.resets = t.resets

theorem SameCanvas.memRead_eq {s t : State} (h : SameCanvas s t) (i : Nat) : s.memRead i = t.memRead i := by
  rw [State.memRead, State.memRead, h.fb, h.resets]

theorem SameCanvas.after_plot {r q : Run} (h : SameCanvas r.state q.state) (on : Bool) (p : Point) :
    SameCanvas (plot on r p).state (plot on q p).state := by
  cases hp : inRange q.state.cfg p
  · rwa [plot_of_not_inRange hp, plot_of_not_inRange (h.cfg ▸ hp)]
  · rw [plot_of_inRange hp, plot_of_inRange (h.cfg ▸ hp), h.cfg, h.memRead_eq]
    exact { h with fb := congrArg (Memory.store · _ _) h.fb }

theorem SameCanvas.after_plotAll {r q : Run} (h : SameCanvas r.state q.state) (on : Bool) (ps : List Point) :
    SameCanvas (plotAll on r ps).state (plotAll on q ps).state := by
  induction ps generalizing r q with
  | nil => exact h
  | cons p ps ih => exact ih (h.after_plot on p)

theorem SameCanvas.after_advance {s t : State} (h : SameCanvas s t) (scale : Byte) :
    SameCanvas (advance scale s) (advance scale t) := by
  obtain ⟨hx, hy⟩ := advance_congr scale h.cfg h.cursorX h.cursorY
  constructor
  case cursorX => exact hx
  case cursorY => exact hy
  all_goals simp [h.cfg, h.fb, h.resets]

/-- The end of the command reports, and leaves the canvas. -/
theorem SameCanvas.after_complete {s t : State} (h : SameCanvas s t) (code : ResultCode) (data : List Byte) :
    SameCanvas s (complete code data t) :=
  { h with }

section
variable {r q : Run} (h : SameCanvas r.state q.state) (scale code : Byte)
include h

theorem SameCanvas.blitPoints_eq : blitPoints r.state code scale = blitPoints q.state code scale :=
  blitPoints_congr code scale h.cfg h.cursorX h.cursorY

theorem SameCanvas.after_renderGlyph :
    SameCanvas (renderGlyph scale r code).state (renderGlyph scale q code).state := by
  rw [renderGlyph, h.blitPoints_eq]
  exact (h.after_plotAll true _).after_advance scale

/-- A glyph latches InvalidArgument, or not, whatever was latched before it. -/
theorem SameCanvas.renderGlyph_latched (hq : q.latched = false) :
    (renderGlyph scale r code).latched = (r.latched || (renderGlyph scale q code).latched) := by
  show (plotAll true r _).latched = (_ || (plotAll true q _).latched)
  rw [plotAll_latched, plotAll_latched, hq, h.blitPoints_eq, h.cfg, Bool.false_or]

end

/-! ## A string is its characters, one DRAW_GLYPH each -/

theorem pendingResult_eq_invalidArgument_iff (latched : Bool) :
    pendingResult latched = .invalidArgument ↔ latched = true := by
  cases latched <;> decide

theorem pendingResult_eq_ok_or (latched : Bool) :
    pendingResult latched = .ok ∨ pendingResult latched = .invalidArgument := by
  cases latched <;> decide

/-- From a run of a string and a state with the same canvas, the rest of the string and one DRAW_GLYPH a character keep
the canvases the same, and the run latches what one of the commands reports. -/
theorem execAll_drawGlyphs {scale : Byte} (hscale : 1 ≤ scale.toNat) {chars : List Byte} {r : Run} {u : State}
    (h : SameCanvas r.state u) (hs : u.status = .initialized) (hglyphs : ∀ c ∈ chars, HasGlyph u.cfg c) :
    ∃ v rs, execAll (chars.map fun c => .drawGlyph c scale) u = .next v ∧
      SameCanvas (chars.foldl (renderChar scale) r).state v ∧ v.responses = u.responses ++ rs ∧
      ((chars.foldl (renderChar scale) r).latched = true ↔
        r.latched = true ∨ ∃ x ∈ rs, x.code = .invalidArgument) := by
  induction chars generalizing r u with
  | nil => exact ⟨u, [], rfl, h, by simp, by simp⟩
  | cons c cs ih =>
    obtain ⟨hglyph, hrest⟩ := List.forall_mem_cons.1 hglyphs
    have hexec := exec_drawGlyph_rendered hs hscale hglyph
    have hstate := renderGlyph_state scale (startRun u) c
    have hcanvas : SameCanvas (renderGlyph scale r c).state (renderGlyph scale (startRun u) c).state :=
      SameCanvas.after_renderGlyph (q := startRun u) h scale c
    have hlatched := SameCanvas.renderGlyph_latched (q := startRun u) h scale c rfl
    generalize renderGlyph scale (startRun u) c = g at hexec hstate hcanvas hlatched
    obtain ⟨v, rs, hv, hcv, hrs, hl⟩ := ih (hcanvas.after_complete (pendingResult g.latched) [])
      (by rw [complete_status, hstate]; exact hs) (by rw [complete_cfg, hstate]; exact hrest)
    refine ⟨v, ⟨pendingResult g.latched, []⟩ :: rs, ?_, ?_, ?_, ?_⟩
    · rw [List.map_cons, execAll, hexec]
      exact hv
    · rwa [List.foldl_cons, renderChar_of_hasGlyph scale (h.cfg ▸ hglyph)]
    · rw [hrs, complete_responses, hstate, List.append_assoc]
      rfl
    · rw [List.foldl_cons, renderChar_of_hasGlyph scale (h.cfg ▸ hglyph), hl, hlatched, Bool.or_eq_true, or_assoc,
        List.exists_mem_cons_iff, pendingResult_eq_invalidArgument_iff]

end Sys2Proof.Machine

namespace Sys2Proof.Proofs
open Sys2Proof.Machine Sys2Proof.Claims

/-- Settles O52: a glyph is a shape, which paints its points, and then ADVANCE. -/
theorem drawGlyphPaintsTheGlyphAndAdvances : Obligations.DrawGlyphPaintsTheGlyphAndAdvances := by
  intro code scale s hw hs hscale hglyph
  obtain ⟨t, hshape, hexec⟩ := exec_drawGlyph_eq_advance hs hscale hglyph
  obtain ⟨hc, hx, hy⟩ := drawShape_cursor hs hshape
  refine ⟨_, hexec, advances_congr (advances_advance (hc ▸ hw)) hc hx hy, ?_⟩
  obtain ⟨t', ht', hpaints⟩ :=
    drawShape_paints hs true fun _ => mem_blitPoints (s := s) (code := code) (scale := scale)
  obtain rfl : t = t' := by simpa [hshape] using ht'
  rw [advance_state, ← hx, ← hy]
  exact hpaints

/-- Settles O53: each check by its equation. -/
theorem textCommandsRejectBadArguments : Obligations.TextCommandsRejectBadArguments :=
  fun _ hs => ⟨fun _ _ => exec_drawGlyph_rejected hs, fun _ _ _ chars => exec_drawString_rejected chars hs⟩

/-- Settles O54: SET_CURSOR leaves the canvas that the string starts from, and each character keeps the two the same. -/
theorem drawStringIsSetCursorThenGlyphs : Obligations.DrawStringIsSetCursorThenGlyphs := by
  intro scale x y chars s hs hscale hin hglyphs
  have hstring := exec_drawString_rendered chars hs hscale hin
  have hcursor := exec_setCursor_inside hs ((inRange_point_iff s.cfg x y).2 hin)
  have hstate := renderChars_state scale (startRun { s with cursorX := x, cursorY := y }) chars
  obtain ⟨u, rs, hu, hcanvas, hrs, hlatched⟩ := execAll_drawGlyphs hscale (chars := chars)
    (r := startRun { s with cursorX := x, cursorY := y })
    (u := complete .ok [] { s with cursorX := x, cursorY := y }) ⟨rfl, rfl, rfl, rfl, rfl⟩ hs hglyphs
  generalize chars.foldl (renderChar scale) _ = r at hstring hstate hcanvas hlatched
  refine ⟨_, u, hstring, ?_, hcanvas.fb, hcanvas.cursorX, hcanvas.cursorY, ?_, pendingResult_eq_ok_or _, ?_⟩
  · rw [execAll, hcursor]
    exact hu
  · rw [complete_lastError, pendingResult_eq_invalidArgument_iff, hlatched, hrs, complete_responses,
      List.append_assoc, List.drop_left]
    simp [startRun]
  · rw [hstate]
    rfl

/-- Settles O55: the character without a glyph only latches InvalidArgument. -/
theorem drawStringSkipsUnknownCharacters : Obligations.DrawStringSkipsUnknownCharacters := by
  intro scale c x y pre post s hs hscale hin hglyph
  have hskip := renderChars_skip (r := startRun { s with cursorX := x, cursorY := y }) scale pre post hglyph
  have hstate := renderChars_state scale (startRun { s with cursorX := x, cursorY := y }) (pre ++ post)
  refine ⟨_, _, exec_drawString_rendered _ hs hscale hin, exec_drawString_rendered _ hs hscale hin, ?_⟩
  rw [hskip]
  generalize (pre ++ post).foldl (renderChar scale) _ = r at hstate
  have hresponses : r.state.responses = s.responses := by rw [hstate]; rfl
  rw [← hresponses]
  rfl

end Sys2Proof.Proofs
end

section
/-! The controller's commands: what a stream ends as when its answers are laid down, and what INIT, CLEAR and FLUSH make
of it (43_controller.md R130 to R137). -/
namespace Sys2Proof.Machine
open Sys2Proof.Claims

/-! ## The bytes of a stream and their records -/

/-- Bytes to send, from bytes with their tags. -/
def taggedBytes (bs : List (Byte × Bool)) : List OutByte := bs.map fun b => { value := b.1, isData := b.2 }

theorem taggedBytes_append (as bs : List (Byte × Bool)) :
    taggedBytes (as ++ bs) = taggedBytes as ++ taggedBytes bs :=
  List.map_append

theorem taggedBytes_append_cons (pre : List (Byte × Bool)) (b : Byte × Bool) (post : List (Byte × Bool)) :
    taggedBytes (pre ++ b :: post) = taggedBytes pre ++ { value := b.1, isData := b.2 } :: taggedBytes post :=
  taggedBytes_append pre (b :: post)

theorem length_taggedBytes (bs : List (Byte × Bool)) : (taggedBytes bs).length = bs.length := List.length_map _

theorem records_taggedBytes (bs : List (Byte × Bool)) :
    (taggedBytes bs).map (·.record .ok) = sentOkTagged bs :=
  List.map_map

/-- Bytes that all have the same tag. -/
theorem sentOkTagged_map (isData : Bool) (bs : List Byte) :
    sentOkTagged (bs.map fun v => (v, isData)) = sentOk isData bs :=
  List.map_map

theorem sentOkTagged_streamOf (c : Config) (contents : List Byte) :
    sentOkTagged (streamOf c contents) = sentOk false c.homeSeq ++ sentOk true contents := by
  rw [← sentOkTagged_map, ← sentOkTagged_map]
  exact List.map_append

theorem controlBytes_eq (bs : List Byte) : controlBytes bs = taggedBytes (bs.map fun v => (v, false)) := by
  rw [taggedBytes, List.map_map]
  rfl

theorem dataBytes_eq (bs : List Byte) : dataBytes bs = taggedBytes (bs.map fun v => (v, true)) := by
  rw [taggedBytes, List.map_map]
  rfl

/-- STREAM sends HOME_SEQ and the buffer (43_controller.md R136). -/
theorem streamBytes_eq (s : State) : streamBytes s = taggedBytes (streamOf s.cfg (buffer s)) := by
  rw [streamBytes, controlBytes_eq, dataBytes_eq, ← taggedBytes_append]
  rfl

/-- The stream of CLEAR: HOME_SEQ and FB_BYTES zero bytes (43_controller.md R133). -/
theorem streamBytes_blank (s : State) :
    streamBytes (blank s) = taggedBytes (streamOf s.cfg (List.replicate s.cfg.fbBytes 0x00)) := by
  rw [streamBytes_eq, ← fbContents_blank, blank_eq]
  rfl

theorem length_streamOf (c : Config) (contents : List Byte) :
    (streamOf c contents).length = c.homeSeq.length + contents.length := by
  simp [streamOf]

/-! ## A stream whose answers are laid down -/

/-- Every Send ok: every byte is in TX, and the command ends with OK. -/
theorem runStream_all_ok (k : StreamCommand) {bs : List (Byte × Bool)} {s : State} {rest : List SendAnswer}
    (h : s.answers = List.replicate bs.length .ok ++ rest) :
    runStream k (taggedBytes bs) s =
      reported .ok [] (afterStream k { s with tx := s.tx ++ sentOkTagged bs, answers := rest }) := by
  rw [← length_taggedBytes] at h
  rw [runStream, sendAll_all_ok _ s rest h, records_taggedBytes]
  rfl

/-- A Send that fails: the bytes up to it are in TX, and the command ends with TransportFailure (60_exceptions.md
R153). -/
theorem runStream_fail (k : StreamCommand) {pre : List (Byte × Bool)} (b : Byte × Bool) (post : List (Byte × Bool))
    {s : State} {rest : List SendAnswer} (h : s.answers = List.replicate pre.length .ok ++ .fail :: rest) :
    runStream k (taggedBytes (pre ++ b :: post)) s =
      { reported .transportFailure [] s with
        tx := s.tx ++ sentOkTagged pre ++ [{ value := b.1, isData := b.2, result := .fail }]
        answers := rest } := by
  rw [← length_taggedBytes] at h
  rw [taggedBytes_append_cons, runStream, sendAll_fail _ _ _ s rest h, records_taggedBytes]
  rfl

/-! ## INIT, CLEAR and FLUSH as streams -/

theorem exec_init_bound {s : State} (hs : s.status ≠ .uninitialized) :
    exec .init s = .next (runStream .init (taggedBytes (s.cfg.initSeq.map fun v => (v, false))) s) := by
  rw [← controlBytes_eq]
  exact if_neg hs

theorem exec_clear_initialized {s : State} (hs : s.status = .initialized) :
    exec .clear s =
      .next (runStream .clear (taggedBytes (streamOf s.cfg (List.replicate s.cfg.fbBytes 0x00))) (blank s)) := by
  rw [← streamBytes_blank]
  exact requireInitialized_of_eq hs

theorem exec_flush_initialized {s : State} (hs : s.status = .initialized) :
    exec .flush s = .next (runStream .flush (taggedBytes (streamOf s.cfg (buffer s))) s) := by
  rw [← streamBytes_eq]
  exact requireInitialized_of_eq hs

/-- FB once CLEAR has zeroed it, however its stream ends. -/
theorem memRead_runStream_blank (k : StreamCommand) (bs : List OutByte) (s : State) :
    (∀ i, i < s.cfg.fbBytes → (runStream k bs (blank s)).memRead i = 0x00) ∧
    (∀ i, s.cfg.fbBytes ≤ i → (runStream k bs (blank s)).memRead i = s.memRead i) := by
  obtain ⟨_, _, _, _, hfb, _, _, hresets⟩ := runStream_keeps k bs (blank s)
  have hread (i : Nat) : (runStream k bs (blank s)).memRead i = if i < s.cfg.fbBytes then 0x00 else s.memRead i := by
    rw [memRead_congr hfb hresets, memRead_blank]
  exact ⟨fun i hi => by rw [hread, if_pos hi], fun i hi => by rw [hread, if_neg (Nat.not_lt.2 hi)]⟩

/-! ## BIND_TRANSPORT -/

theorem exec_bindTransport_good {cs clk din dc rst : Byte} {s : State}
    (h : GoodDescriptor s.cfg cs clk din dc rst) :
    exec (.bindTransport cs clk din dc rst) s = .next (reported .ok [] (bindLines cs clk din dc rst s)) :=
  if_pos ((validDescriptor_iff ..).2 h)

theorem exec_bindTransport_bad {cs clk din dc rst : Byte} {s : State}
    (h : ¬ GoodDescriptor s.cfg cs clk din dc rst) :
    exec (.bindTransport cs clk din dc rst) s = .next (reported .invalidConfig [] s) :=
  if_neg (mt (validDescriptor_iff ..).1 h)

end Sys2Proof.Machine

namespace Sys2Proof.Proofs
open Sys2Proof.Machine Sys2Proof.Claims

/-- Settles O23: the handshake is a stream of control bytes, each answered ok. -/
theorem initRunsTheHandshake : Obligations.InitRunsTheHandshake := by
  intro s rest hs ha
  rw [exec_init_bound hs, runStream_all_ok .init (by rwa [List.length_map]), sentOkTagged_map]
  rfl

/-- Settles O24: the handshake is a stream that fails after `pre`. -/
theorem initStopsAtTheFailingSend : Obligations.InitStopsAtTheFailingSend := by
  intro s pre b post rest hs hseq ha
  rw [exec_init_bound hs, hseq, List.map_append, List.map_cons,
    runStream_fail .init (b, false) _ (by rwa [List.length_map]), sentOkTagged_map]

/-- Settles O26: the stream of the blanked state, each byte answered ok. -/
theorem clearZeroesHomesAndRepaints : Obligations.ClearZeroesHomesAndRepaints := by
  intro s rest hs ha
  refine ⟨_, exec_clear_initialized hs, ?_, memRead_runStream_blank _ _ s⟩
  rw [runStream_all_ok .clear (rest := rest) (by rw [blank_eq, length_streamOf, List.length_replicate]; exact ha),
    sentOkTagged_streamOf, ← List.append_assoc, blank_eq]
  rfl

/-- Settles O27: the stream of the blanked state, which fails after `pre`. -/
theorem failedClearStaysCleared : Obligations.FailedClearStaysCleared := by
  intro s pre b post rest hs hstream ha
  refine ⟨_, exec_clear_initialized hs, ?_, memRead_runStream_blank _ _ s⟩
  rw [hstream, runStream_fail .clear b post (rest := rest) (by rw [blank_eq]; exact ha), blank_eq]
  rfl

/-- Settles O28: the stream of the buffer, each byte answered ok. -/
theorem flushSendsTheFrameBuffer : Obligations.FlushSendsTheFrameBuffer := by
  intro s rest hs ha
  have hlength : (buffer s).length = s.cfg.fbBytes := by simp [buffer]
  rw [exec_flush_initialized hs, runStream_all_ok .flush (rest := rest) (by rwa [length_streamOf, hlength]),
    sentOkTagged_streamOf, ← List.append_assoc]
  rfl

/-- Settles O29: the stream of the buffer, which fails after `pre`. -/
theorem failedFlushLeavesTheBuffer : Obligations.FailedFlushLeavesTheBuffer := by
  intro s pre b post rest hs hstream ha
  rw [exec_flush_initialized hs, hstream, runStream_fail .flush b post ha]

/-- Settles O21: the format without operands, and the meaning itself. -/
theorem nopReportsOkAndClearsAStaleError : Obligations.NopReportsOkAndClearsAStaleError :=
  ⟨rfl, fun _ _ => ⟨.wrongLength, rfl⟩, fun _ => rfl⟩

/-- Settles O22: the packet by its format, and the two answers by the descriptor check. -/
theorem bindTransportAcceptsExactlyValidDescriptors : Obligations.BindTransportAcceptsExactlyValidDescriptors :=
  fun _ _ _ _ _ _ => ⟨rfl, validDescriptor_iff .., exec_bindTransport_good, exec_bindTransport_bad⟩

/-- Settles O31: the format without operands, and the meaning itself. -/
theorem getLastErrorReturnsTheCodeAndKeepsIt : Obligations.GetLastErrorReturnsTheCodeAndKeepsIt :=
  ⟨rfl, fun _ _ => ⟨.wrongLength, rfl⟩, fun _ => rfl, rfl⟩

end Sys2Proof.Proofs
end

section
/-! What a command reports and what it never does: no stop, its codes, the lifecycle requirement, TX (60_exceptions.md
R151, R152, R155, R158). -/
namespace Sys2Proof.Machine
open Sys2Proof.Claims

/-! ## No stop -/

/-- Each way a command ends is a next state (60_exceptions.md R152). -/
theorem Ends.exists_next {s : State} {i : Instr} {o : Host.Outcome State Fault Refusal} (h : Ends s i o) :
    ∃ t, o = .next t := by
  cases h with
  | completes _ _ _ => exact ⟨_, rfl⟩
  | readsLastError _ => exact ⟨_, rfl⟩
  | streams _ _ _ => exact ⟨_, rfl⟩

theorem exec_exists_next (i : Instr) (s : State) : ∃ t, exec i s = .next t := (exec_ends i s).exists_next

theorem step_exists_next (s : State) : ∃ t, step s = .next t := by
  rcases step_cases s with ⟨_, h⟩ | ⟨_, _, h⟩ | ⟨_, _, _, h⟩ | ⟨_, _, _, _, _, _, h⟩ | ⟨_, _, i, _, _, _, h⟩ <;> rw [h]
  · exact ⟨_, rfl⟩
  · exact ⟨_, rfl⟩
  · exact ⟨_, rfl⟩
  · exact ⟨_, rfl⟩
  · exact exec_exists_next i _

/-- An engine with nothing to do keeps its state (60_exceptions.md R167). -/
theorem step_idle {s : State} (hb : s.busy = false) (hi : s.inbox = []) : step s = .next s := by
  simp [step, fetch, hb, hi]

/-! ## Codes -/

/-- A response a command appended has a code of the command's row (60_exceptions.md R151). -/
theorem code_mem_mayReport {i : Instr} {s t : State} {r : Response} (he : exec i s = .next t)
    (hr : t.responses = s.responses ++ [r]) : r.code ∈ mayReport i := by
  cases hb : t.busy with
  | true => simp [exec_held he hb] at hr
  | false =>
    obtain ⟨code, data, hresp, hcode, _⟩ := exec_reportable he hb
    obtain rfl : r = ⟨code, data⟩ := by simpa [hresp] using hr.symm
    exact hcode

/-- A held command that is over has delivered one response, OK or TransportFailure (43_controller.md R132, R136). -/
theorem resumeSend_ended {s : State} (hs : s.busy = true) (hb : (resumeSend s).busy = false) :
    ∃ code ∈ [ResultCode.ok, .transportFailure],
      (resumeSend s).responses = s.responses ++ [{ code := code, data := [] }] := by
  unfold resumeSend at hb ⊢
  split at hb
  · obtain ⟨code, hcode, hresp, _⟩ := runStream_ended hb
    exact ⟨code, hcode, hresp⟩
  · simp [hs] at hb

/-! ## The lifecycle requirement -/

/-- The commands of 60_exceptions.md R155 begin with its check. -/
theorem exec_eq_requireInitialized {i : Instr} (hi : needsInitialized i = true) (s : State) :
    ∃ body, exec i s = requireInitialized (dataLength i) s body := by
  cases i with
  | nop => cases hi
  | bindTransport _ _ _ _ _ => cases hi
  | init => cases hi
  | getLastError => cases hi
  | _ => exact ⟨_, rfl⟩

/-- NotInitialized is in the rows of those commands alone. -/
theorem notInitialized_not_mem_mayReport {i : Instr} (hi : needsInitialized i = false) :
    .notInitialized ∉ mayReport i := by
  cases i with
  | nop => decide
  | bindTransport _ _ _ _ _ => simp [mayReport, opOf]
  | init => decide
  | getLastError => decide
  | _ => cases hi

/-! ## TX -/

/-- A command's own writes leave TX and the transport's answers alone. -/
theorem Written.transport_eq {s u : State} {i : Instr} (h : Written s i u) :
    u.tx = s.tx ∧ u.answers = s.answers ∧ u.draws = s.draws := by
  rw [h.state_eq]
  exact ⟨rfl, rfl, rfl⟩

/-- A command appends to TX, and one that does not send leaves the transport alone (60_exceptions.md R158). -/
theorem exec_transport {i : Instr} {s t : State} (he : exec i s = .next t) :
    (∃ records, t.tx = s.tx ++ records) ∧
    (sends i = false → t.tx = s.tx ∧ t.answers = s.answers ∧ t.draws = s.draws) := by
  cases ends_of_exec he with
  | completes hw _ _ => exact ⟨⟨[], by simp [hw.transport_eq]⟩, fun _ => hw.transport_eq⟩
  | readsLastError _ => exact ⟨⟨[], by simp⟩, fun _ => ⟨rfl, rfl, rfl⟩⟩
  | @streams u k bs hw hk _ =>
    obtain ⟨htx, _⟩ := runStream_keeps k bs u
    obtain ⟨hutx, _⟩ := hw.transport_eq
    have hsends : sends i = true := by
      subst hk
      cases k <;> rfl
    exact ⟨hutx ▸ htx, fun hno => by simp [hsends] at hno⟩

/-- Of all steps, only the reset event does more to TX than append (10_state.md R30, R36). -/
theorem step_tx {s t : State} (hs : s.busy = true ∨ ∀ rest, s.inbox ≠ .reset :: rest) (hstep : step s = .next t) :
    ∃ records, t.tx = s.tx ++ records := by
  rcases step_cases s with ⟨_, h⟩ | ⟨_, _, h⟩ | ⟨rest, hb, hi, _⟩ | ⟨_, _, _, _, _, _, h⟩ | ⟨_, _, i, _, _, _, h⟩
  · obtain rfl : resumeSend s = t := by simpa [h] using hstep
    obtain ⟨htx, _⟩ := resumeSend_keeps s
    exact htx
  · obtain rfl : s = t := by simpa [h] using hstep
    exact ⟨[], by simp⟩
  · rcases hs with hs | hs
    · simp [hb] at hs
    · exact absurd hi (hs rest)
  · obtain rfl : rejectPacket (acceptPacket s) = t := by simpa [h] using hstep
    exact ⟨[], by simp [rejectPacket]⟩
  · obtain ⟨htx, _⟩ := exec_transport (h ▸ hstep)
    exact htx

end Sys2Proof.Machine

namespace Sys2Proof.Proofs
open Sys2Proof.Machine Sys2Proof.Claims

/-- Settles O17, by the ways a command ends and the kinds of step. -/
theorem nothingStopsTheEngine : Obligations.NothingStopsTheEngine :=
  ⟨exec_exists_next, step_exists_next, fun _ hb hi => step_idle hb hi⟩

/-- Settles O8: a command that is over reports from its row, and a held one ends as its stream does. -/
theorem commandsReportOnlyTheirCodes : Obligations.CommandsReportOnlyTheirCodes := by
  refine ⟨fun i s t he hb => ?_, fun s t hs hstep hb => ?_⟩
  · obtain ⟨code, data, hresp, hcode, _⟩ := exec_reportable he hb
    exact ⟨⟨code, data⟩, hresp, hcode⟩
  · obtain rfl := step_of_busy hs hstep
    obtain ⟨code, hcode, hresp⟩ := resumeSend_ended hs hb
    exact ⟨⟨code, []⟩, hresp, hcode⟩

/-- Settles O9: the check comes before all else, and the code is in no other command's row. -/
theorem commandsThatNeedInitializedDoNothingWithoutIt : Obligations.CommandsThatNeedInitializedDoNothingWithoutIt := by
  refine ⟨fun i s hi hs => ?_, fun i s t hi he r hr hcode => ?_, fun s hs => if_pos hs⟩
  · obtain ⟨body, hexec⟩ := exec_eq_requireInitialized hi s
    exact hexec.trans (requireInitialized_of_ne hs)
  · exact notInitialized_not_mem_mayReport hi (hcode ▸ code_mem_mayReport he hr)

/-- Settles O11: register writes leave the transport alone, and Sends append to TX. -/
theorem onlySendingCommandsExtendTx : Obligations.OnlySendingCommandsExtendTx := by
  refine ⟨fun i s t he => exec_transport he, fun s t hs hstep => ?_, fun s t hs hstep => step_tx hs hstep⟩
  obtain rfl := step_of_busy hs hstep
  obtain ⟨htx, hx, hy, hbind, hfb, _, _, hresets⟩ := resumeSend_keeps s
  exact ⟨htx, hx, hy, hbind, hfb, hresets⟩

end Sys2Proof.Proofs
end

section
/-! A command held in an outstanding Send: what it has done when it is held, and what its next steps do
(60_exceptions.md R159; the held state is the model's, log 6). -/
namespace Sys2Proof.Machine
open Sys2Proof.Claims

/-! ## Streams cut at a Send -/

/-- Sends answered ok leave the rest of the stream to be sent. -/
theorem sendAll_ok_append (pre bs : List OutByte) {s : State} {rest : List SendAnswer}
    (h : s.answers = List.replicate pre.length .ok ++ rest) :
    sendAll (pre ++ bs) s = sendAll bs { s with tx := s.tx ++ pre.map (·.record .ok), answers := rest } := by
  induction pre generalizing s with
  | nil =>
    obtain rfl : s.answers = rest := h
    simp
  | cons b pre ih =>
    have htake : takeAnswer s = (.ok, { s with answers := List.replicate pre.length .ok ++ rest }) := by
      simp [takeAnswer, h, List.replicate_succ]
    rw [List.cons_append, sendAll, htake]
    simp only
    rw [ih rfl, recordSend_eq]
    simp

theorem runStream_ok_append (k : StreamCommand) (pre bs : List OutByte) {s : State} {rest : List SendAnswer}
    (h : s.answers = List.replicate pre.length .ok ++ rest) :
    runStream k (pre ++ bs) s = runStream k bs { s with tx := s.tx ++ pre.map (·.record .ok), answers := rest } := by
  rw [runStream, sendAll_ok_append pre bs h, ← runStream]

/-- A Send that has not returned holds the command with that byte and the later ones (60_exceptions.md R159). -/
theorem runStream_wait (k : StreamCommand) (pre : List OutByte) (b : OutByte) (post : List OutByte) {s : State}
    {rest : List SendAnswer} (h : s.answers = List.replicate pre.length .ok ++ .notYet :: rest) :
    runStream k (pre ++ b :: post) s =
      holdBusy { command := k, pending := b :: post }
        { s with tx := s.tx ++ pre.map (·.record .ok), answers := rest } := by
  rw [runStream, sendAll_wait pre b post s rest h]

/-- The same of bytes with their tags. -/
theorem runStream_wait_tagged (k : StreamCommand) (pre : List (Byte × Bool)) (b : Byte × Bool)
    (post : List (Byte × Bool)) {s : State} {rest : List SendAnswer}
    (h : s.answers = List.replicate pre.length .ok ++ .notYet :: rest) :
    runStream k (taggedBytes (pre ++ b :: post)) s =
      holdBusy { command := k, pending := taggedBytes (b :: post) }
        { s with tx := s.tx ++ sentOkTagged pre, answers := rest } := by
  rw [← length_taggedBytes] at h
  rw [taggedBytes_append_cons, runStream_wait k _ _ _ h, records_taggedBytes]
  rfl

/-! ## The step of a held command -/

theorem step_of_held {s : State} {w : InFlight} (hb : s.busy = true) (hw : s.inFlight = some w) :
    step s = .next (runStream w.command w.pending s) := by
  rw [← resumeSend_of_held hw]
  simp [step, fetch, hb]

/-- An answer "not yet" goes by and nothing else changes (60_exceptions.md R159). -/
theorem step_held_notYet {s : State} {w : InFlight} {rest : List SendAnswer} (hb : s.busy = true)
    (hw : s.inFlight = some w) (hp : w.pending ≠ []) (ha : s.answers = .notYet :: rest) :
    step s = .next { s with answers := rest } := by
  obtain ⟨k, pending⟩ := w
  obtain ⟨b, post, rfl⟩ := List.exists_cons_of_ne_nil hp
  rw [step_of_held hb hw]
  simp only
  rw [← List.nil_append (b :: post), runStream_wait k [] b post ha]
  simp [holdBusy, ← hb, ← hw]

/-- Whether the command was held before makes no difference to its Sends. -/
theorem sendAll_holdBusy (w : InFlight) (bs : List OutByte) (s : State) :
    sendAll bs (holdBusy w s) = (holdBusy w (sendAll bs s).1, (sendAll bs s).2) := by
  induction bs generalizing s with
  | nil => rfl
  | cons b bs ih =>
    have htake : takeAnswer (holdBusy w s) = ((takeAnswer s).1, holdBusy w (takeAnswer s).2) := by
      unfold takeAnswer holdBusy
      cases s.answers <;> rfl
    rw [sendAll, sendAll, htake]
    rcases takeAnswer s with ⟨answer, t⟩
    cases answer with
    | ok => exact ih (recordSend b .ok t)
    | fail => rfl
    | notYet => rfl

/-- Whether the command was held before makes no difference to what its stream ends as. -/
theorem runStream_holdBusy (k : StreamCommand) (w : InFlight) (bs : List OutByte) (s : State) :
    runStream k bs (holdBusy w s) = runStream k bs s := by
  unfold runStream
  rw [sendAll_holdBusy]
  rcases sendAll bs s with ⟨t, stop⟩
  cases stop with
  | done => cases k <;> rfl
  | failed => rfl
  | waiting pending => rfl

/-- A stream held by one late answer ends, in the next step, as the stream without that wait. -/
theorem step_late_answer {k : StreamCommand} {bs : List OutByte} {u : State} {n : Nat} {later : List SendAnswer}
    (hb : (runStream k bs { u with answers := List.replicate n .ok ++ .notYet :: later }).busy = true) :
    step (runStream k bs { u with answers := List.replicate n .ok ++ .notYet :: later }) =
      .next (runStream k bs { u with answers := List.replicate n .ok ++ later }) := by
  rcases Nat.lt_or_ge n bs.length with hn | hn
  · obtain ⟨pre, b, post, rfl, rfl⟩ : ∃ pre b post, bs = pre ++ b :: post ∧ n = pre.length :=
      ⟨bs.take n, bs[n], bs.drop (n + 1), by simp, by simp; omega⟩
    rw [runStream_wait k pre b post rfl, step_of_held rfl rfl, runStream_ok_append k pre (b :: post) rfl]
    exact congrArg _ (runStream_holdBusy k _ _ _)
  · obtain ⟨m, rfl⟩ := Nat.exists_eq_add_of_le hn
    rw [runStream, sendAll_all_ok bs _ (List.replicate m .ok ++ .notYet :: later)
      (by rw [List.replicate_add, List.append_assoc])] at hb
    simp at hb

/-! ## What a command that sends does with any answers -/

/-- Zeroing FB reads no answer of the transport, and keeps them. -/
theorem zeroBytes_answers (s : State) (n : Nat) (a : List SendAnswer) :
    ({ s with answers := a } : State).zeroBytes n = { s.zeroBytes n with answers := a } := by
  induction n with
  | zero => rfl
  | succ n ih => rw [zeroBytes_succ, ih, zeroBytes_succ]; rfl

theorem blank_answers (s : State) (a : List SendAnswer) :
    blank { s with answers := a } = { blank s with answers := a } := by
  unfold blank
  rw [zeroBytes_answers]
  rfl

/-- INIT, CLEAR and FLUSH run one stream from one state, whatever the answers, or end in their check. -/
theorem exec_sends_cases {i : Instr} (hi : sends i = true) (s : State) :
    (∃ k bs, ∃ u : State, ∀ a : List SendAnswer,
      exec i { s with answers := a } = .next (runStream k bs { u with answers := a })) ∨
    ∃ code, ∀ a : List SendAnswer,
      exec i { s with answers := a } = .next (complete code [] { s with answers := a }) := by
  cases i with
  | init =>
    by_cases hs : s.status = .uninitialized
    · exact .inr ⟨.transportNotBound, fun a => if_pos hs⟩
    · exact .inl ⟨.init, controlBytes s.cfg.initSeq, s, fun a => if_neg hs⟩
  | clear =>
    by_cases hs : s.status = .initialized
    · refine .inl ⟨.clear, streamBytes (blank s), blank s, fun a => ?_⟩
      rw [← blank_answers, streamBytes_blank]
      exact exec_clear_initialized hs
    · exact .inr ⟨.notInitialized, fun a => requireInitialized_of_ne hs⟩
  | flush =>
    by_cases hs : s.status = .initialized
    · exact .inl ⟨.flush, streamBytes s, s, fun a => requireInitialized_of_eq hs⟩
    · exact .inr ⟨.notInitialized, fun a => requireInitialized_of_ne hs⟩
  | _ => cases hi

end Sys2Proof.Machine

namespace Sys2Proof.Proofs
open Sys2Proof.Machine Sys2Proof.Claims

/-- Settles O19, by induction on the number of answers that go by. -/
theorem sendThatNeverReturnsHoldsTheEngine : Obligations.SendThatNeverReturnsHoldsTheEngine := by
  intro k
  induction k with
  | zero =>
    intro s w more _ _ _ ha
    obtain rfl : s.answers = more := ha
    rfl
  | succ k ih =>
    intro s w more hb hw hp ha
    rw [stepTimes, step_held_notYet hb hw hp ha]
    exact ih _ w more hb hw hp rfl

/-- Settles O20: the command is a stream, and the step goes on with it where it was held. -/
theorem lateAnswerChangesNothingElse : Obligations.LateAnswerChangesNothingElse := by
  intro i s t n later hi he hb
  rcases exec_sends_cases hi s with ⟨k, bs, u, hexec⟩ | ⟨code, hexec⟩ <;> rw [hexec] at he <;> cases he
  · rw [hexec]
    exact step_late_answer hb
  · simp at hb

/-- Settles O25: the handshake is a stream held after `pre`. -/
theorem initIsHeldByAnOutstandingSend : Obligations.InitIsHeldByAnOutstandingSend := by
  intro s pre b post rest hs hseq ha
  have hpending : controlBytes (b :: post) = taggedBytes ((b, false) :: post.map fun v => (v, false)) :=
    controlBytes_eq (b :: post)
  rw [exec_init_bound hs, hseq, List.map_append, List.map_cons,
    runStream_wait_tagged .init _ (b, false) _ (by rwa [List.length_map]), sentOkTagged_map, ← hpending]
  rfl

/-- Settles O57: the stream of the blanked state, held after `pre`. -/
theorem clearIsHeldByAnOutstandingSend : Obligations.ClearIsHeldByAnOutstandingSend := by
  intro s pre b post rest hs hstream ha
  refine ⟨_, exec_clear_initialized hs, ?_, memRead_runStream_blank _ _ s⟩
  rw [hstream, runStream_wait_tagged .clear pre b post (rest := rest) (by rw [blank_eq]; exact ha), blank_eq]
  rfl

/-- Settles O58: the stream of the buffer, held after `pre`. -/
theorem flushIsHeldByAnOutstandingSend : Obligations.FlushIsHeldByAnOutstandingSend := by
  intro s pre b post rest hs hstream ha
  rw [exec_flush_initialized hs, hstream, runStream_wait_tagged .flush pre b post ha]
  rfl

end Sys2Proof.Proofs
end

section
/-! The handshake (70_reset_and_hazards.md R176): the step that takes a legal packet, and the step that goes on with a
held command; and the loops of LINE and CIRCLE, which end by their own tests (R181). -/
namespace Sys2Proof.Machine

/-! ## The handshake -/

/-- Accepting the packet at the head of the port takes it from there and sets BUSY (10_state.md R33). -/
theorem acceptPacket_of_inbox {s : State} {e : HostEvent} {rest : List HostEvent} (hi : s.inbox = e :: rest) :
    acceptPacket s = { s with inbox := rest, busy := true } := by
  obtain rfl : s.inbox.tail = rest := by rw [hi, List.tail_cons]
  rfl

theorem step_legal {s : State} {p : List Byte} {rest : List HostEvent} {i : Instr} (hb : s.busy = false)
    (hi : s.inbox = .packet p :: rest) (hd : decode p = .ok i) : step s = exec i (acceptPacket s) := by
  simp [step, fetch, hb, hi, hd]

/-- A stream that leaves BUSY = 1 is held after the Sends it has made, and has done nothing else. -/
theorem runStream_eq_holdBusy {k : StreamCommand} {bs : List OutByte} {s : State}
    (h : (runStream k bs s).busy = true) :
    ∃ pending, runStream k bs s = holdBusy { command := k, pending := pending } (sendAll bs s).1 := by
  rcases runStream_cases k bs s with ⟨_, heq⟩ | ⟨_, heq⟩ | ⟨pending, _, heq⟩
  · simp [heq] at h
  · simp [heq] at h
  · exact ⟨pending, heq⟩

/-- A command that stays held has reported nothing (60_exceptions.md R159). -/
theorem resumeSend_held {s : State} (h : (resumeSend s).busy = true) :
    (resumeSend s).responses = s.responses ∧ (resumeSend s).lastError = s.lastError ∧
      (resumeSend s).status = s.status := by
  unfold resumeSend at h ⊢
  split at h
  · obtain ⟨_, heq⟩ := runStream_eq_holdBusy h
    rw [heq, sendAll_state]
    exact ⟨rfl, rfl, rfl⟩
  · exact ⟨rfl, rfl, rfl⟩

/-! ## The bounds on the passes -/

section
variable {x1 y1 x2 y2 : Int} {n : Nat}

/-- On a segment at least as wide as high, every bound above the width leaves the loop the same points. -/
theorem lineLoop_eq_linePoints_of_wide (hw : (y2 - y1).natAbs ≤ (x2 - x1).natAbs) (hn : (x2 - x1).natAbs < n) :
    lineLoop x2 y2 (x2 - x1).natAbs (y2 - y1).natAbs (x2 - x1).sign (y2 - y1).sign n x1 y1
      ((x2 - x1).natAbs - (y2 - y1).natAbs) = linePoints x1 y1 x2 y2 := by
  have h := lineLoop_widePoint hw (x2 - x1).natAbs 0 n (by omega) hn
  have herr : lineError (x2 - x1).natAbs (y2 - y1).natAbs 0 = (x2 - x1).natAbs - (y2 - y1).natAbs := by
    simp [lineError, minorStep_zero]
  rwa [widePoint_zero, herr, ← List.range_eq_range', ← linePoints_of_wide hw] at h

/-- LINE ends by its own test within one pass more than its longer side, whatever bound beyond that it is given. -/
theorem lineLoop_eq_linePoints (hn : max (x2 - x1).natAbs (y2 - y1).natAbs < n) :
    lineLoop x2 y2 (x2 - x1).natAbs (y2 - y1).natAbs (x2 - x1).sign (y2 - y1).sign n x1 y1
      ((x2 - x1).natAbs - (y2 - y1).natAbs) = linePoints x1 y1 x2 y2 := by
  obtain ⟨hx, hy⟩ := max_lt_iff.1 hn
  rcases le_total (y2 - y1).natAbs (x2 - x1).natAbs with hw | ht
  · exact lineLoop_eq_linePoints_of_wide hw hx
  · rw [linePoints_swap, ← lineLoop_eq_linePoints_of_wide ht hy, ← lineLoop_swap, neg_sub]

end

/-- Each pass of CIRCLE brings y one nearer to x, so a bound above their distance is never reached. -/
theorem circleLoop_add {n : Nat} {x y : Int} (hn : x - y < n) (more : Nat) (d : Int) :
    circleLoop (n + more) x y d = circleLoop n x y d := by
  induction n generalizing x y d with
  | zero =>
    have hxy : x < y := by omega
    rw [circleLoop_of_lt hxy, circleLoop_of_lt hxy]
  | succ n ih =>
    rcases lt_or_ge x y with hxy | hyx
    · rw [circleLoop_of_lt hxy, circleLoop_of_lt hxy]
    · rw [Nat.succ_add, circleLoop_of_le hyx, circleLoop_of_le hyx, ih (by omega), ih (by omega)]

end Sys2Proof.Machine

namespace Sys2Proof.Proofs
open Sys2Proof.Machine

/-- Settles O18: the step is the held command's stream, which leaves the port and FB alone and reports when it ends. -/
theorem busyEngineTakesNothingFromThePort : Obligations.BusyEngineTakesNothingFromThePort := by
  intro s t hs hstep
  obtain rfl := step_of_busy hs hstep
  obtain ⟨_, _, _, _, hfb, hinbox, _, _⟩ := resumeSend_keeps s
  refine ⟨hinbox, fun hb => ?_⟩
  obtain ⟨hresp, hlast, hstatus⟩ := resumeSend_held hb
  exact ⟨hresp, hlast, hstatus, hfb⟩

/-- Settles O47: LINE takes a pass for each step of its longer side, and CIRCLE closes its octant by one each pass. -/
theorem loopsEndByTheirOwnTests : Obligations.LoopsEndByTheirOwnTests :=
  ⟨fun _ _ _ _ _ => lineLoop_eq_linePoints (by omega), fun _ more => circleLoop_add (by omega) more _⟩

/-- Settles O5: the port's head is accepted and its command executed. -/
theorem stepExecutesTheDecodedCommand : Obligations.StepExecutesTheDecodedCommand :=
  fun _ _ _ _ hb hi hd => (step_legal hb hi hd).trans (by rw [acceptPacket_of_inbox hi])

end Sys2Proof.Proofs
end
